-- ==== Sys2Proof/Word.lean ====
section
/-! DEFINITION. The machine's word types (00_scope.md R5, R7, R8): widths, and nothing else. -/

namespace Sys2Proof

/-- A byte: a register `V[i]`, a timer, an immediate `kk`, a memory cell (R7, R8). -/
abbrev Byte := BitVec 8

/-- A 16-bit word: `I`, `PC`, a stack entry, an instruction word (R8). -/
abbrev Word := BitVec 16

/-- A register number, 0 to 15 (R11): every value names a register. -/
abbrev Reg := Fin 16

/-- A key index, 0x0 to 0xF (R5 `NKEYS`). -/
abbrev Key := Fin 16

end Sys2Proof
end

