-- ==== Sys2Proof/Machine/Display.lean ====
section
/-! DEFINITION. The display buffer and the pixel engine (10_state.md R18, 43_display.md R140, R143, R144). -/

namespace Sys2Proof.Machine

/-- `DISP[py][px]`: 32 rows (`py`) of 64 one-bit cells (`px`); `true` is on (R18). -/
abbrev Display := Vector (Vector Bool 64) 32

/-- Every cell off (R141). -/
def Display.clear : Display := Vector.replicate 32 (Vector.replicate 64 false)

/-- The column of a coordinate: the remainder by 64 (R143). -/
def wrapCol (px : Nat) : Fin 64 := Fin.ofNat 64 px

/-- The row of a coordinate: the remainder by 32 (R143). -/
def wrapRow (py : Nat) : Fin 32 := Fin.ofNat 32 py

/-- The cell at wrapped coordinates. -/
def Display.pixel (d : Display) (px py : Nat) : Bool := d[wrapRow py][wrapCol px]

/-- The new buffer of `Toggle(px, py)` (R140). -/
def Display.flip (d : Display) (px py : Nat) : Display :=
  d.set (wrapRow py) (d[wrapRow py].set (wrapCol px) (!d.pixel px py))

/-- `Toggle(px, py)` (R140): the new buffer, and whether the pixel was on before (a collision). -/
def Display.toggle (d : Display) (px py : Nat) : Display × Bool := (d.flip px py, d.pixel px py)

/-- Column `c` of a sprite byte: bit 7 − c, so bit 7 is column 0 (R144, assumption 9). -/
def spriteBit (row : Byte) (c : Nat) : Bool := row.getLsbD (7 - c)

/-- The columns of a sprite byte whose bit is set, left to right. -/
def setColumns (row : Byte) : List Nat := (List.range 8).filter (spriteBit row)

/-- The coordinates of the set bits of the sprite rows `rows`, drawn at column `x0` and row `y0`, in the order of
R142's loops: row by row, left to right. -/
def spritePixels (x0 y0 : Nat) : List Byte → List (Nat × Nat)
  | [] => []
  | row :: rows => (setColumns row).map (fun c => (x0 + c, y0)) ++ spritePixels x0 (y0 + 1) rows

/-- Toggle each coordinate in turn; the second part tells whether any toggle collided (R142). -/
def Display.toggleAll : Display → List (Nat × Nat) → Display × Bool
  | d, [] => (d, false)
  | d, p :: ps =>
    let t := d.toggle p.1 p.2
    let r := Display.toggleAll t.1 ps
    (r.1, t.2 || r.2)

/-- Draw sprite rows at column `x0`, row `y0`: the new buffer and the collision flag (R142). -/
def Display.drawSprite (d : Display) (x0 y0 : Nat) (rows : List Byte) : Display × Bool :=
  d.toggleAll (spritePixels x0 y0 rows)

end Sys2Proof.Machine
end

