-- ==== Sys2Proof/Config.lean ====
section
/-! DEFINITION. What is fixed for a machine: the constants of 00_scope.md R5, the parameters of R6, and the free values
the environment supplies at the input ports (10_state.md R21). -/

namespace Sys2Proof

/-- `MEM_SIZE` (R5): 4096 bytes, addresses 0x000 to 0xFFF. -/
def memSize : Nat := 4096

/-- `FONT_BASE` (R5). -/
def fontBase : Word := 0x000#16

/-- `PROGRAM_BASE` (R5). -/
def programBase : Word := 0x200#16

/-- `PROGRAM_MAX` (R5): 4096 − 0x200 bytes. -/
def programMax : Nat := 3584

/-- `OOB_POLICY` (R6): what an access beyond 0xFFF does (20_memory.md R45). -/
inductive OobPolicy where
  | fault
  | wrap
  deriving DecidableEq, Repr

/-- The parameters of R6: each is an argument of the model (assumption 1). -/
structure Config where
  /-- `STACK_CAPACITY`; `none` is unbounded (10_state.md R15). -/
  stackCapacity : Option Nat
  /-- `STEPS_PER_FRAME` (70_reset_and_hazards.md R207). -/
  stepsPerFrame : Nat
  /-- `FRAME_RATE`, used by no rule (70_reset_and_hazards.md R209). -/
  frameRate : Nat
  /-- `FONT_TABLE` (70_reset_and_hazards.md R204). -/
  fontTable : Vector Byte 80
  /-- `SHL_FLAG_NORMALISED` (41_alu.md R112). -/
  shlFlagNormalised : Bool
  /-- `OOB_POLICY` (20_memory.md R45). -/
  oobPolicy : OobPolicy
  /-- `TIMERS_RUN_WHILE_AWAITING` (60_exceptions.md R181). -/
  timersRunWhileAwaiting : Bool
  deriving DecidableEq, Repr

/-- What the input ports show at one event (60_exceptions.md R185). -/
structure Inputs where
  /-- `key_held[15:0]`, by key index (44_keypad_timers.md R150). -/
  keyHeld : Vector Bool 16
  /-- `key_press`: the index of a key that has just gone down, if one has (R153). -/
  keyPress : Option Key
  /-- `rand_byte` (41_alu.md R113). -/
  randByte : Byte
  /-- `frame_strobe`: a frame is asked for (10_state.md R21, 70_reset_and_hazards.md R207). -/
  frameStrobe : Bool
  /-- Which goes first when a key press and an event of the frame sequencer are both due: the spec allows both orders
  (60_exceptions.md R183, assumption 4). -/
  keyFirst : Bool
  deriving DecidableEq, Repr, Inhabited

/-- FREE VALUE (assumption 2): what the environment shows at the input ports at its `k`-th sample. Uninterpreted:
nothing can be proved about any sample, so a claim that rests on none holds for every environment (R113, R150, R153,
93_implementation_defined.md U7, U8, U17). -/
opaque Config.environment : Nat → Inputs

end Sys2Proof
end

