-- ==== Sys2Proof/Machine/Memory.lean ====
section
/-! DEFINITION. Byte memory (10_state.md R10, 20_memory.md R40, R48): a list of cells in one canonical form. The
addresses rise strictly, none lies above 0xFFF, and no listed byte equals what an unlisted address reads as. -/

namespace Sys2Proof.Machine

/-- `MEM`: the cells that differ from the byte every cell holds after reset. -/
abbrev Memory := List Host.Cell

/-- What an unlisted address reads as: the byte every cell holds after reset (R10, R25). -/
def Memory.unlisted : Byte := 0x00#8

/-- The byte at address `a`. -/
def Memory.read : Memory → Nat → Byte
  | [], _ => Memory.unlisted
  | (b, v) :: rest, a => if b = a then v else Memory.read rest a

/-- The cells other than `a`'s. -/
def Memory.erase (m : Memory) (a : Nat) : Memory := m.filter (fun c => c.1 != a)

/-- One more cell, put before the first cell of a higher address. -/
def Memory.insert : Memory → Nat → Byte → Memory
  | [], a, v => [(a, v)]
  | (b, u) :: rest, a, v =>
    if a < b then (a, v) :: (b, u) :: rest else (b, u) :: Memory.insert rest a v

/-- Store the byte `v` at address `a`; storing what an unlisted address reads as leaves the address unlisted. -/
def Memory.write (m : Memory) (a : Nat) (v : Byte) : Memory :=
  if v = Memory.unlisted then m.erase a else (m.erase a).insert a v

/-- The canonical form, as a check. -/
def Memory.wf : Memory → Bool
  | [] => true
  | [(a, v)] => a < memSize && v != Memory.unlisted
  | (a, v) :: (b, u) :: rest => a < b && v != Memory.unlisted && Memory.wf ((b, u) :: rest)

/-- The address of the `j`-th byte of an access at `addr`. Below 0x1000 this is `addr + j`; the remainder only ever acts
under `OOB_POLICY = wrap`, which takes every byte address modulo 4096 (R45). -/
def byteAddr (addr : Word) (j : Nat) : Nat := (addr.toNat + j) % memSize

/-- The `n` bytes from `addr`, lowest address first (20_memory.md R43). -/
def Memory.bytesAt (m : Memory) (addr : Word) (n : Nat) : List Byte :=
  (List.range n).map (fun j => m.read (byteAddr addr j))

/-- Store `bs` from byte `j` of the access at `addr` on, in ascending order (R43). -/
def Memory.writeFrom (m : Memory) (addr : Word) : Nat → List Byte → Memory
  | _, [] => m
  | j, b :: bs => Memory.writeFrom (m.write (byteAddr addr j) b) addr (j + 1) bs

end Sys2Proof.Machine
end

