-- ==== Sys2Proof/Machine/Params.lean ====
section
/-! DEFINITION. The default value of each parameter of 00_scope.md R6. -/

namespace Sys2Proof.Machine

/-- `FONT_TABLE`'s default, digits 0 to 7 (70_reset_and_hazards.md R204). -/
def fontLow : List Byte :=
  [0xF0, 0x90, 0x90, 0x90, 0xF0] ++ [0x20, 0x60, 0x20, 0x20, 0x70] ++
  [0xF0, 0x10, 0xF0, 0x80, 0xF0] ++ [0xF0, 0x10, 0xF0, 0x10, 0xF0] ++
  [0x90, 0x90, 0xF0, 0x10, 0x10] ++ [0xF0, 0x80, 0xF0, 0x10, 0xF0] ++
  [0xF0, 0x80, 0xF0, 0x90, 0xF0] ++ [0xF0, 0x10, 0x20, 0x40, 0x40]

/-- `FONT_TABLE`'s default, digits 8 to F (R204). -/
def fontHigh : List Byte :=
  [0xF0, 0x90, 0xF0, 0x90, 0xF0] ++ [0xF0, 0x90, 0xF0, 0x10, 0xF0] ++
  [0xF0, 0x90, 0xF0, 0x90, 0x90] ++ [0xE0, 0x90, 0xE0, 0x90, 0xE0] ++
  [0xF0, 0x80, 0x80, 0x80, 0xF0] ++ [0xE0, 0x90, 0x90, 0x90, 0xE0] ++
  [0xF0, 0x80, 0xF0, 0x80, 0xF0] ++ [0xF0, 0x80, 0xF0, 0x80, 0x80]

/-- The default `FONT_TABLE` (R204). -/
def defaultFontTable : Vector Byte 80 :=
  Vector.ofFn (fun j => (fontLow ++ fontHigh).getD j.val 0x00)

/-- The defaults of R6. -/
def defaultConfig : Config where
  stackCapacity := some 16
  stepsPerFrame := 10
  frameRate := 60
  fontTable := defaultFontTable
  shlFlagNormalised := true
  oobPolicy := .fault
  timersRunWhileAwaiting := true

end Sys2Proof.Machine
end

