-- ==== Sys2Proof/Machine/State.lean ====
section
/-! DEFINITION. The machine's state (10_state.md), its faults and refusals, and the state after reset (R25). -/

namespace Sys2Proof.Machine

/-- The faults (60_exceptions.md R170), each with the info it records. A fault of this machine is a value of `MODE`:
raising one is a NEXT state whose mode is `Faulted` (R173, assumption 5), so no step of the model answers
`Host.Outcome.fault`. That is neither safer nor less safe than the spec: it is R173's own state change. -/
inductive Fault where
  /-- Raised by the decode of a step: the fetched word `w` matches no rule (R171). -/
  | unknownOpcode (w : Word)
  /-- Raised by return when `STACK` is empty (R172). -/
  | stackUnderflow
  /-- Raised by call when `STACK` holds `STACK_CAPACITY` entries (R175). Safe: the reference machine has no limit. -/
  | stackOverflow
  /-- Raised by a fetch, draw, store-bcd, store-regs or load-regs: the `n` bytes from `addr` do not all lie in
  0x000 to 0xFFF (R179). Safe: the spec offers wrapping as the alternative (R45). -/
  | memoryOutOfRange (addr : Word) (n : Nat)
  /-- Raised by the loader: the image of `len` bytes is longer than 3584 (R180). -/
  | programTooLarge (len : Nat)
  deriving DecidableEq, Repr

/-- The spec's number of a fault (R170). -/
def Fault.code : Fault → Nat
  | .unknownOpcode _ => 1
  | .stackUnderflow => 2
  | .stackOverflow => 3
  | .memoryOutOfRange _ _ => 4
  | .programTooLarge _ => 5

/-- The reasons an instruction has no meaning. No arm of this model answers one. -/
inductive Refusal where
  /-- Answered by `exec` for an instruction that has no meaning yet (safe: nothing can be proved past it). -/
  | notModelled (mnemonic : String)
  deriving DecidableEq, Repr

/-- `MODE`, the run state (10_state.md R19). -/
inductive Mode where
  /-- Steps execute. -/
  | running
  /-- await-key waits for a key press; `x` is the register that will take it. -/
  | awaitingKey (x : Reg)
  /-- A fault was raised; left only by reset (R176). The output `fault` presents the cause. -/
  | faulted (cause : Fault)
  deriving DecidableEq, Repr

/-- The state of the block (10_state.md §1), its paint output, and three fields of the model's own: `scripted`, `time`
and `cfg` (assumptions 1 and 2). -/
structure State where
  /-- `MEM` (R10). -/
  mem : Memory
  /-- `V[0]` to `V[15]` (R11, R12). -/
  v : Vector Byte 16
  /-- `I` (R13). -/
  i : Word
  /-- `PC` (R14). -/
  pc : Word
  /-- `STACK`, the most recently pushed entry first (R15). -/
  stack : List Word
  /-- `DT` (R16). -/
  dt : Byte
  /-- `ST` (R17). -/
  st : Byte
  /-- `DISP` (R18). -/
  disp : Display
  /-- `MODE` (R19). -/
  mode : Mode
  /-- `TONE` (R20). -/
  tone : Bool
  /-- The batch position: how many step slots of this frame are used (R24). -/
  batchPos : Nat
  /-- The output `paint_request`: true when the last turn was a timer tick (R21, R181, assumption 7). -/
  paintRequest : Bool
  /-- MODEL: what the input ports (R21) show at the next events, the next one first. Past its end the environment decides;
  it is empty unless a claim or a test says what the ports show. -/
  scripted : List Inputs
  /-- MODEL: how many turns there have been: the number of the environment's next sample. -/
  time : Nat
  /-- MODEL: the parameters (00_scope.md R6); no event changes them. -/
  cfg : Config
  deriving DecidableEq, Repr

/-- Every piece of state at its reset value (R25), for the parameters `c` and what the input ports will show. -/
def State.resetWith (c : Config) (scripted : List Inputs) (time : Nat) : State where
  mem := []
  v := Vector.replicate 16 0x00#8
  i := 0x0000#16
  pc := programBase
  stack := []
  dt := 0x00#8
  st := 0x00#8
  disp := Display.clear
  mode := .running
  tone := false
  batchPos := 0
  paintRequest := false
  scripted := scripted
  time := time
  cfg := c

/-- The machine right after reset, before the loader runs (R25), with the default parameters. -/
def State.reset : State := State.resetWith defaultConfig [] 0

end Sys2Proof.Machine
end

