-- ==== Sys2Proof/Machine/Flags.lean ====
section
/-! DEFINITION. What the flag-writing instructions write into `V[0xF]` (10_state.md R12). -/

namespace Sys2Proof.Machine

/-- A flag as a byte, 0 or 1. -/
def flagByte (b : Bool) : Byte := if b then 0x01#8 else 0x00#8

/-- add-reg: the untruncated sum exceeds 255 (41_alu.md R108). -/
def carryFlag (a b : Byte) : Byte := flagByte (decide (a.toNat + b.toNat > 255))

/-- sub-reg and subn-reg: the first operand is strictly greater (R109, R111). -/
def greaterFlag (a b : Byte) : Byte := flagByte (decide (a.toNat > b.toNat))

/-- shr: bit 0 before the shift (R110). -/
def shrFlag (a : Byte) : Byte := flagByte (a.getLsbD 0)

/-- shl: bit 7 before the shift, as 0 or 1, or as the raw masked bit when `SHL_FLAG_NORMALISED` is false (R112). -/
def shlFlag (normalised : Bool) (a : Byte) : Byte :=
  if normalised then flagByte (a.getLsbD 7) else a &&& 0x80#8

end Sys2Proof.Machine
end

