-- ==== Sys2Proof/Syntax.lean ====
section
/-! DEFINITION. The instructions: one constructor per row of spec/opcode_table.json, operands as 30_encoding.md R61 to
R63 names them. The don't-care bits of R72 are kept as fields (`y` of shr and shl, `low` of the two register skips), so
that every legal word is exactly one instruction (assumption 8). -/

namespace Sys2Proof

/-- The 34 instructions (30_encoding.md R65 to R69). -/
inductive Instr where
  /-- `clear-display` (43_display.md R141). -/
  | clearDisplay
  /-- `return` (40_control_flow.md R81). -/
  | ret
  /-- `jump nnn` (R82). -/
  | jump (nnn : BitVec 12)
  /-- `call nnn` (R84). -/
  | call (nnn : BitVec 12)
  /-- `skip-eq-imm Vx, kk` (R85). -/
  | skipEqImm (x : Reg) (kk : Byte)
  /-- `skip-ne-imm Vx, kk` (R86). -/
  | skipNeImm (x : Reg) (kk : Byte)
  /-- `skip-eq-reg Vx, Vy` (R87); `low` is the unexamined low nibble (R70). -/
  | skipEqReg (x y : Reg) (low : BitVec 4)
  /-- `load-imm Vx, kk` (41_alu.md R101). -/
  | loadImm (x : Reg) (kk : Byte)
  /-- `add-imm Vx, kk` (R102). -/
  | addImm (x : Reg) (kk : Byte)
  /-- `reg-move Vx, Vy` (R103). -/
  | regMove (x y : Reg)
  /-- `or Vx, Vy` (R104). -/
  | orReg (x y : Reg)
  /-- `and Vx, Vy` (R105). -/
  | andReg (x y : Reg)
  /-- `xor Vx, Vy` (R106). -/
  | xorReg (x y : Reg)
  /-- `add-reg Vx, Vy` (R108). -/
  | addReg (x y : Reg)
  /-- `sub-reg Vx, Vy` (R109). -/
  | subReg (x y : Reg)
  /-- `shr Vx` (R110); `y` is decoded and ignored (R67). -/
  | shr (x y : Reg)
  /-- `subn-reg Vx, Vy` (R111). -/
  | subnReg (x y : Reg)
  /-- `shl Vx` (R112); `y` is decoded and ignored (R67). -/
  | shl (x y : Reg)
  /-- `skip-ne-reg Vx, Vy` (R88); `low` is the unexamined low nibble (R70). -/
  | skipNeReg (x y : Reg) (low : BitVec 4)
  /-- `load-index nnn` (42_index_memory.md R120). -/
  | loadIndex (nnn : BitVec 12)
  /-- `jump-plus-v0 nnn` (R83). -/
  | jumpPlusV0 (nnn : BitVec 12)
  /-- `rand Vx, kk` (R113). -/
  | rand (x : Reg) (kk : Byte)
  /-- `draw Vx, Vy, n` (R142); `n` is a count of rows, 0 to 15. -/
  | draw (x y : Reg) (n : Fin 16)
  /-- `skip-key-pressed Vx` (44_keypad_timers.md R151). -/
  | skipKeyPressed (x : Reg)
  /-- `skip-key-not-pressed Vx` (R157). -/
  | skipKeyNotPressed (x : Reg)
  /-- `load-delay Vx` (R154). -/
  | loadDelay (x : Reg)
  /-- `await-key Vx` (R152). -/
  | awaitKey (x : Reg)
  /-- `store-delay Vx` (R155). -/
  | storeDelay (x : Reg)
  /-- `store-sound Vx` (R156). -/
  | storeSound (x : Reg)
  /-- `add-index Vx` (R121). -/
  | addIndex (x : Reg)
  /-- `load-font-addr Vx` (R122). -/
  | loadFontAddr (x : Reg)
  /-- `store-bcd Vx` (R123). -/
  | storeBcd (x : Reg)
  /-- `store-regs Vx` (R124); `x` is used as a number. -/
  | storeRegs (x : Reg)
  /-- `load-regs Vx` (R125); `x` is used as a number. -/
  | loadRegs (x : Reg)
  deriving DecidableEq, Repr

end Sys2Proof
end

