-- ==== Sys2Proof/WellFormed.lean ====
section
/-! DEFINITION. Well-formed instructions: the ones an assembler writes (30_encoding.md R72, R73). Register numbers,
counts and immediates are bounded by their types; what is left to check are the don't-care positions, which an encoder
fills with 0. An instruction that is not well-formed still runs: the decoder reads it from a non-canonical word. -/

namespace Sys2Proof

/-- The don't-care field of the instruction, where it has one, is 0 (R70, R72). -/
def Instr.wellFormed : Instr → Bool
  | .skipEqReg _ _ low => low == 0
  | .skipNeReg _ _ low => low == 0
  | .shr _ y => y == 0
  | .shl _ y => y == 0
  | .clearDisplay => true
  | .ret => true
  | .jump _ => true
  | .call _ => true
  | .skipEqImm _ _ => true
  | .skipNeImm _ _ => true
  | .loadImm _ _ => true
  | .addImm _ _ => true
  | .regMove _ _ => true
  | .orReg _ _ => true
  | .andReg _ _ => true
  | .xorReg _ _ => true
  | .addReg _ _ => true
  | .subReg _ _ => true
  | .subnReg _ _ => true
  | .loadIndex _ => true
  | .jumpPlusV0 _ => true
  | .rand _ _ => true
  | .draw _ _ _ => true
  | .skipKeyPressed _ => true
  | .skipKeyNotPressed _ => true
  | .loadDelay _ => true
  | .awaitKey _ => true
  | .storeDelay _ => true
  | .storeSound _ => true
  | .addIndex _ => true
  | .loadFontAddr _ => true
  | .storeBcd _ => true
  | .storeRegs _ => true
  | .loadRegs _ => true

end Sys2Proof
end

