-- ==== Sys2Proof/Decode.lean ====
section
/-! DEFINITION. Decode and encode (30_encoding.md R60 to R72). The decoder is total and rejects by name; it dispatches
on the top nibble and, in the families 0x0, 0x8, 0xE and 0xF, a second time (R65). The numeric opcode values are the
spec's (R74, assumption 9). -/

namespace Sys2Proof

/-- Why bytes give no instruction. -/
inductive DecodeError where
  /-- No decode rule matches the word (R71). -/
  | unknownOpcode (w : Word)
  /-- Fewer than the two bytes of an instruction word (R60); never raised by a step, which fetches two bytes. -/
  | truncated (bytes : Nat)
  deriving DecidableEq, Repr

/-! ## Fields (R61) -/

/-- `op`, bits 15-12. -/
def fieldOp (w : Word) : BitVec 4 := w.extractLsb' 12 4

/-- `x`, bits 11-8. -/
def fieldX (w : Word) : Reg := (w.extractLsb' 8 4).toFin

/-- `y`, bits 7-4. -/
def fieldY (w : Word) : Reg := (w.extractLsb' 4 4).toFin

/-- Bits 3-0 as a selector or as bits nobody examines. -/
def fieldLow (w : Word) : BitVec 4 := w.extractLsb' 0 4

/-- `n`, bits 3-0 as a count. -/
def fieldN (w : Word) : Fin 16 := (fieldLow w).toFin

/-- `kk`, bits 7-0. -/
def fieldKK (w : Word) : Byte := w.extractLsb' 0 8

/-- `nnn`, bits 11-0. -/
def fieldNNN (w : Word) : BitVec 12 := w.extractLsb' 0 12

/-! ## Decode -/

/-- Family 0x0: all 16 bits are matched (R66). -/
def decodeFamily0 (w : Word) : Except DecodeError Instr :=
  if w = 0x00E0#16 then .ok .clearDisplay
  else if w = 0x00EE#16 then .ok .ret
  else .error (.unknownOpcode w)

/-- Family 0x8: second level on the low nibble (R67). -/
def decodeFamily8 (w : Word) : Except DecodeError Instr :=
  let x := fieldX w
  let y := fieldY w
  if fieldLow w = 0x0#4 then .ok (.regMove x y)
  else if fieldLow w = 0x1#4 then .ok (.orReg x y)
  else if fieldLow w = 0x2#4 then .ok (.andReg x y)
  else if fieldLow w = 0x3#4 then .ok (.xorReg x y)
  else if fieldLow w = 0x4#4 then .ok (.addReg x y)
  else if fieldLow w = 0x5#4 then .ok (.subReg x y)
  else if fieldLow w = 0x6#4 then .ok (.shr x y)
  else if fieldLow w = 0x7#4 then .ok (.subnReg x y)
  else if fieldLow w = 0xE#4 then .ok (.shl x y)
  else .error (.unknownOpcode w)

/-- Family 0xE: second level on the whole low byte (R68). -/
def decodeFamilyE (w : Word) : Except DecodeError Instr :=
  let x := fieldX w
  if fieldKK w = 0x9E#8 then .ok (.skipKeyPressed x)
  else if fieldKK w = 0xA1#8 then .ok (.skipKeyNotPressed x)
  else .error (.unknownOpcode w)

/-- Family 0xF: second level on the whole low byte (R69). -/
def decodeFamilyF (w : Word) : Except DecodeError Instr :=
  let x := fieldX w
  if fieldKK w = 0x07#8 then .ok (.loadDelay x)
  else if fieldKK w = 0x0A#8 then .ok (.awaitKey x)
  else if fieldKK w = 0x15#8 then .ok (.storeDelay x)
  else if fieldKK w = 0x18#8 then .ok (.storeSound x)
  else if fieldKK w = 0x1E#8 then .ok (.addIndex x)
  else if fieldKK w = 0x29#8 then .ok (.loadFontAddr x)
  else if fieldKK w = 0x33#8 then .ok (.storeBcd x)
  else if fieldKK w = 0x55#8 then .ok (.storeRegs x)
  else if fieldKK w = 0x65#8 then .ok (.loadRegs x)
  else .error (.unknownOpcode w)

/-- The first decode level (R65). Families 0x5 and 0x9 do not examine bits 3-0 (R70). -/
def decodeWord (w : Word) : Except DecodeError Instr :=
  let x := fieldX w
  let y := fieldY w
  let kk := fieldKK w
  let nnn := fieldNNN w
  if fieldOp w = 0x0#4 then decodeFamily0 w
  else if fieldOp w = 0x1#4 then .ok (.jump nnn)
  else if fieldOp w = 0x2#4 then .ok (.call nnn)
  else if fieldOp w = 0x3#4 then .ok (.skipEqImm x kk)
  else if fieldOp w = 0x4#4 then .ok (.skipNeImm x kk)
  else if fieldOp w = 0x5#4 then .ok (.skipEqReg x y (fieldLow w))
  else if fieldOp w = 0x6#4 then .ok (.loadImm x kk)
  else if fieldOp w = 0x7#4 then .ok (.addImm x kk)
  else if fieldOp w = 0x8#4 then decodeFamily8 w
  else if fieldOp w = 0x9#4 then .ok (.skipNeReg x y (fieldLow w))
  else if fieldOp w = 0xA#4 then .ok (.loadIndex nnn)
  else if fieldOp w = 0xB#4 then .ok (.jumpPlusV0 nnn)
  else if fieldOp w = 0xC#4 then .ok (.rand x kk)
  else if fieldOp w = 0xD#4 then .ok (.draw x y (fieldN w))
  else if fieldOp w = 0xE#4 then decodeFamilyE w
  else decodeFamilyF w

/-- The instruction word of two bytes: the first, at the lower address, is bits 15-8 (20_memory.md R42). -/
def wordOfBytes (hi lo : Byte) : Word := BitVec.ofNat 16 (hi.toNat * 0x100 + lo.toNat)

/-- The byte at the lower address: bits 15-8 (R42). -/
def highByte (w : Word) : Byte := w.extractLsb' 8 8

/-- The byte at the higher address: bits 7-0 (R42). -/
def lowByte (w : Word) : Byte := w.extractLsb' 0 8

/-- One instruction from a list of bytes, with the bytes after it. -/
def decodeBytes : List Byte → Except DecodeError (Instr × List Byte)
  | hi :: lo :: rest =>
    match decodeWord (wordOfBytes hi lo) with
    | .ok i => .ok (i, rest)
    | .error e => .error e
  | [_] => .error (.truncated 1)
  | [] => .error (.truncated 0)

/-- The instruction the decoder reads from an instruction whose bits are `w`, numbered as spec/opcode_table.json numbers
them: every instruction is one 16-bit word, of which the table gives `nbits` bits and the rest are 0. -/
def decodeTableWord (nbits w : Nat) : Option Instr :=
  let word : Word := BitVec.ofNat 16 (w % 2 ^ nbits)
  match decodeBytes [highByte word, lowByte word] with
  | .ok (i, _) => some i
  | .error _ => none

/-! ## Encode (R61, R62, R72) -/

/-- Format `NNN`. -/
def packNNN (op : Nat) (nnn : BitVec 12) : Word := BitVec.ofNat 16 (op * 0x1000 + nnn.toNat)

/-- Formats `XKK` and `X`. -/
def packXKK (op : Nat) (x : Reg) (kk : Nat) : Word := BitVec.ofNat 16 (op * 0x1000 + x.val * 0x100 + kk)

/-- Formats `XY` and `XYN`. -/
def packXYN (op : Nat) (x y : Reg) (n : Nat) : Word :=
  BitVec.ofNat 16 (op * 0x1000 + x.val * 0x100 + y.val * 0x10 + n)

/-- The word of an instruction; 0 stands in every don't-care position (R72). -/
def encode : Instr → Word
  | .clearDisplay => 0x00E0#16
  | .ret => 0x00EE#16
  | .jump nnn => packNNN 0x1 nnn
  | .call nnn => packNNN 0x2 nnn
  | .skipEqImm x kk => packXKK 0x3 x kk.toNat
  | .skipNeImm x kk => packXKK 0x4 x kk.toNat
  | .skipEqReg x y _ => packXYN 0x5 x y 0x0
  | .loadImm x kk => packXKK 0x6 x kk.toNat
  | .addImm x kk => packXKK 0x7 x kk.toNat
  | .regMove x y => packXYN 0x8 x y 0x0
  | .orReg x y => packXYN 0x8 x y 0x1
  | .andReg x y => packXYN 0x8 x y 0x2
  | .xorReg x y => packXYN 0x8 x y 0x3
  | .addReg x y => packXYN 0x8 x y 0x4
  | .subReg x y => packXYN 0x8 x y 0x5
  | .shr x _ => packXYN 0x8 x 0 0x6
  | .subnReg x y => packXYN 0x8 x y 0x7
  | .shl x _ => packXYN 0x8 x 0 0xE
  | .skipNeReg x y _ => packXYN 0x9 x y 0x0
  | .loadIndex nnn => packNNN 0xA nnn
  | .jumpPlusV0 nnn => packNNN 0xB nnn
  | .rand x kk => packXKK 0xC x kk.toNat
  | .draw x y n => packXYN 0xD x y n.val
  | .skipKeyPressed x => packXKK 0xE x 0x9E
  | .skipKeyNotPressed x => packXKK 0xE x 0xA1
  | .loadDelay x => packXKK 0xF x 0x07
  | .awaitKey x => packXKK 0xF x 0x0A
  | .storeDelay x => packXKK 0xF x 0x15
  | .storeSound x => packXKK 0xF x 0x18
  | .addIndex x => packXKK 0xF x 0x1E
  | .loadFontAddr x => packXKK 0xF x 0x29
  | .storeBcd x => packXKK 0xF x 0x33
  | .storeRegs x => packXKK 0xF x 0x55
  | .loadRegs x => packXKK 0xF x 0x65

/-- The two bytes of an instruction as memory holds them, lower address first (R42). -/
def encodeBytes (i : Instr) : List Byte := [highByte (encode i), lowByte (encode i)]

/-- The bits of a legal word that are no don't-care bits (R70, R72): what is left of `w` once the encoder's zeros stand
in the don't-care positions. -/
def clearDontCare (w : Word) : Word :=
  if fieldOp w = 0x5#4 ∨ fieldOp w = 0x9#4 then w &&& 0xFFF0#16
  else if fieldOp w = 0x8#4 ∧ (fieldLow w = 0x6#4 ∨ fieldLow w = 0xE#4) then w &&& 0xFF0F#16
  else w

end Sys2Proof
end

