-- ==== Sys2Proof/Machine/Operands.lean ====
section
/-! DEFINITION. Operand forms (30_encoding.md R63): everything is unsigned and zero-extended. -/

namespace Sys2Proof.Machine

/-- `zext_16(nnn)`: a 12-bit address as a 16-bit value. -/
def zextAddr (nnn : BitVec 12) : Word := nnn.setWidth 16

/-- `zext_16(b)`: a byte as a 16-bit value. -/
def zextByte (b : Byte) : Word := b.setWidth 16

/-- `zext_8(k)`: a key index as a byte (44_keypad_timers.md R153). -/
def zextKey (k : Key) : Byte := BitVec.ofNat 8 k.val

/-- `V[x]` read (R8). -/
def State.reg (s : State) (x : Reg) : Byte := s.v[x]

/-- `V[0], …, V[x]`: the register range of store-regs (42_index_memory.md R124). -/
def State.regsThrough (s : State) (x : Reg) : List Byte := s.v.toList.take (x.val + 1)

/-- `x` as the length of the range V0 to Vx (R124, R125). -/
def countThrough (x : Reg) : Nat := x.val + 1

/-- The three decimal digits of a byte, hundreds first (R123). -/
def bcdDigits (a : Byte) : List Byte :=
  [BitVec.ofNat 8 (a.toNat / 100), BitVec.ofNat 8 (a.toNat / 10 % 10), BitVec.ofNat 8 (a.toNat % 10)]

/-- The address of the glyph of `b`: `b × 5`, unmasked (R122). -/
def glyphAddr (b : Byte) : Word := BitVec.ofNat 16 (b.toNat * 5)

/-- What the input ports show at this event (10_state.md R21): the script's next entry, or else the environment's free
value (assumption 2). -/
def State.ports (s : State) : Inputs :=
  match s.scripted with
  | [] => Config.environment s.time
  | p :: _ => p

/-- `KeyHeld(k)` (44_keypad_timers.md R150): the level of key `k`; a key above 15 does not exist and is never held. -/
def State.keyHeld (s : State) (k : Byte) : Bool :=
  if h : k.toNat < 16 then s.ports.keyHeld[k.toNat] else false

/-- `RandomByte()` (41_alu.md R113): the byte at the random port. -/
def State.randomByte (s : State) : Byte := s.ports.randByte

end Sys2Proof.Machine
end

