-- ==== Sys2Proof/Machine/Ops.lean ====
section
/-! DEFINITION. The named operations every meaning is built from: register, stack and memory updates, raising a fault
(60_exceptions.md R173) and the reset that is the only way out of one (R176, R200). -/

namespace Sys2Proof.Machine

/-! ## One update per piece of state -/

/-- `V[x] <- b` (00_scope.md R8). No register is hard-wired (10_state.md R11). -/
def State.setReg (s : State) (x : Reg) (b : Byte) : State := { s with v := s.v.set x b }

/-- All of `V` at once. -/
def State.setRegs (s : State) (v : Vector Byte 16) : State := { s with v := v }

/-- `I <- w`. -/
def State.setIndex (s : State) (w : Word) : State := { s with i := w }

/-- `pc <- target`. -/
def State.setPc (s : State) (target : Word) : State := { s with pc := target }

/-- The whole of `STACK`. -/
def State.setStack (s : State) (l : List Word) : State := { s with stack := l }

/-- The whole of `MEM`. -/
def State.setMem (s : State) (m : Memory) : State := { s with mem := m }

/-- The whole of `DISP`. -/
def State.setDisp (s : State) (d : Display) : State := { s with disp := d }

/-- `DT <- b`. -/
def State.setDelay (s : State) (b : Byte) : State := { s with dt := b }

/-- `ST <- b`. -/
def State.setSound (s : State) (b : Byte) : State := { s with st := b }

/-- `TONE <- b`. -/
def State.setTone (s : State) (b : Bool) : State := { s with tone := b }

/-- `MODE <- m`. -/
def State.setMode (s : State) (m : Mode) : State := { s with mode := m }

/-- The batch position (10_state.md R24). -/
def State.setBatchPos (s : State) (n : Nat) : State := { s with batchPos := n }

/-- The output `paint_request`. -/
def State.setPaint (s : State) (b : Bool) : State := { s with paintRequest := b }

/-- The event is over: the input ports show what comes next (assumption 2). -/
def State.sampleInputs (s : State) : State :=
  { s with scripted := s.scripted.tail, time := s.time + 1 }

/-! ## Program counter and stack -/

/-- `pc <- (PC + 2) mod 65536` (30_encoding.md R64). -/
def State.advancePc (s : State) : State := s.setPc (s.pc + 2#16)

/-- A skip (40_control_flow.md R85 to R88): two more bytes when the condition holds. -/
def State.skipIf (s : State) (c : Bool) : State := s.setPc (if c then s.pc + 2#16 else s.pc)

/-- The stack holds `STACK_CAPACITY` entries or more (10_state.md R15). -/
def State.stackFull (s : State) : Bool :=
  match s.cfg.stackCapacity with
  | none => false
  | some cap => decide (cap ≤ s.stack.length)

/-! ## Faults -/

/-- `raise f`: fault entry (60_exceptions.md R173). The mode records the cause and info; `PC` keeps the value it has;
nothing else changes, nothing is saved, and there is no handler (R174). -/
def State.raise (s : State) (f : Fault) : State := s.setMode (.faulted f)

/-- Reset (70_reset_and_hazards.md R200): the one way out of `Faulted` (R176). The parameters stay, and so does what
the environment shows, which no reset of the block touches. -/
def State.hostReset (s : State) : State := State.resetWith s.cfg s.scripted s.time

/-- `Push(v)` (10_state.md R15), then `next`; `StackOverflow` with nothing changed when the stack is full. -/
def State.pushThen (s : State) (w : Word) (next : State → State) : State :=
  if s.stackFull then s.raise .stackOverflow else next (s.setStack (w :: s.stack))

/-- `Pop()` (R15), then `next` with the popped entry; `StackUnderflow` with nothing changed when the stack is empty. -/
def State.popThen (s : State) (next : Word → State → State) : State :=
  match s.stack with
  | [] => s.raise .stackUnderflow
  | w :: rest => next w (s.setStack rest)

/-! ## Memory access -/

/-- The access of `n` bytes at `addr` raises no fault (20_memory.md R45): it is empty, its last byte lies at or below
0xFFF, or addresses wrap. -/
def accessOk (c : Config) (addr : Word) (n : Nat) : Bool :=
  match c.oobPolicy with
  | .wrap => true
  | .fault => n == 0 || decide (addr.toNat + n - 1 ≤ 0xFFF)

/-- `MemRead(addr, n)` (00_scope.md R8), then `next` with the bytes; the fault comes before anything else happens. -/
def State.memReadThen (s : State) (addr : Word) (n : Nat) (next : List Byte → State) : State :=
  if accessOk s.cfg addr n then next (s.mem.bytesAt addr n) else s.raise (.memoryOutOfRange addr n)

/-- `MemWrite(addr, n, bytes)` (R8), all or nothing (20_memory.md R46). -/
def State.memWrite (s : State) (addr : Word) (bytes : List Byte) : State :=
  if accessOk s.cfg addr bytes.length then s.setMem (s.mem.writeFrom addr 0 bytes)
  else s.raise (.memoryOutOfRange addr bytes.length)

/-- The instruction word at `PC`, big-endian (20_memory.md R42). -/
def State.fetchWord (s : State) : Word :=
  wordOfBytes (s.mem.read (byteAddr s.pc 0)) (s.mem.read (byteAddr s.pc 1))

/-! ## Results -/

/-- The two writes of a flag-writing ALU instruction: the flag first, the result second (41_alu.md R107). -/
def State.writeFlagThenResult (s : State) (x : Reg) (flag result : Byte) : State :=
  (s.setReg 0xF flag).setReg x result

/-- `for j in 0..x: V[j] <- b[j]` for the bytes `b` (42_index_memory.md R125); registers past them keep their values. -/
def State.loadRegsFrom (s : State) (b : List Byte) : State :=
  s.setRegs (Vector.ofFn (fun j => b.getD j.val s.v[j]))

/-- Apply `f` to the next state of an outcome. -/
def onNext (f : State → State) : Host.Outcome State Fault Refusal → Host.Outcome State Fault Refusal
  | .next s => .next (f s)
  | .fault r => .fault r
  | .refused r => .refused r

end Sys2Proof.Machine
end

