-- ==== Sys2Proof/Machine/Alu.lean ====
section
/-! DEFINITION. Register moves and arithmetic (41_alu.md). Everything is unsigned and 8 bits wide (R100). -/

namespace Sys2Proof.Machine

/-- `load-imm Vx, kk` (R101). -/
def execLoadImm (x : Reg) (kk : Byte) (s : State) : Host.Outcome State Fault Refusal := .next (s.setReg x kk)

/-- `add-imm Vx, kk` (R102): no flag. -/
def execAddImm (x : Reg) (kk : Byte) (s : State) : Host.Outcome State Fault Refusal :=
  .next (s.setReg x (s.reg x + kk))

/-- `reg-move Vx, Vy` (R103). -/
def execRegMove (x y : Reg) (s : State) : Host.Outcome State Fault Refusal := .next (s.setReg x (s.reg y))

/-- `or Vx, Vy` (R104). -/
def execOr (x y : Reg) (s : State) : Host.Outcome State Fault Refusal := .next (s.setReg x (s.reg x ||| s.reg y))

/-- `and Vx, Vy` (R105). -/
def execAnd (x y : Reg) (s : State) : Host.Outcome State Fault Refusal := .next (s.setReg x (s.reg x &&& s.reg y))

/-- `xor Vx, Vy` (R106). -/
def execXor (x y : Reg) (s : State) : Host.Outcome State Fault Refusal := .next (s.setReg x (s.reg x ^^^ s.reg y))

/-- `add-reg Vx, Vy` (R108). -/
def execAddReg (x y : Reg) (s : State) : Host.Outcome State Fault Refusal :=
  .next (s.writeFlagThenResult x (carryFlag (s.reg x) (s.reg y)) (s.reg x + s.reg y))

/-- `sub-reg Vx, Vy` (R109). -/
def execSubReg (x y : Reg) (s : State) : Host.Outcome State Fault Refusal :=
  .next (s.writeFlagThenResult x (greaterFlag (s.reg x) (s.reg y)) (s.reg x - s.reg y))

/-- `shr Vx` (R110). -/
def execShr (x : Reg) (s : State) : Host.Outcome State Fault Refusal :=
  .next (s.writeFlagThenResult x (shrFlag (s.reg x)) (s.reg x >>> 1))

/-- `subn-reg Vx, Vy` (R111). -/
def execSubnReg (x y : Reg) (s : State) : Host.Outcome State Fault Refusal :=
  .next (s.writeFlagThenResult x (greaterFlag (s.reg y) (s.reg x)) (s.reg y - s.reg x))

/-- `shl Vx` (R112). -/
def execShl (x : Reg) (s : State) : Host.Outcome State Fault Refusal :=
  .next (s.writeFlagThenResult x (shlFlag s.cfg.shlFlagNormalised (s.reg x)) (s.reg x <<< 1))

/-- `rand Vx, kk` (R113): the drawn byte is a free value (assumption 2). -/
def execRand (x : Reg) (kk : Byte) (s : State) : Host.Outcome State Fault Refusal :=
  .next (s.setReg x (s.randomByte &&& kk))

end Sys2Proof.Machine
end

