-- ==== Sys2Proof/Machine/ControlFlow.lean ====
section
/-! DEFINITION. Control flow (40_control_flow.md). `PC` already holds the instruction's own address plus 2 (R14). -/

namespace Sys2Proof.Machine

/-- `return` (R81). -/
def execRet (s : State) : Host.Outcome State Fault Refusal := .next (s.popThen (fun w t => t.setPc w))

/-- `jump nnn` (R82). -/
def execJump (nnn : BitVec 12) (s : State) : Host.Outcome State Fault Refusal := .next (s.setPc (zextAddr nnn))

/-- `call nnn` (R84): the advanced `PC` is pushed. -/
def execCall (nnn : BitVec 12) (s : State) : Host.Outcome State Fault Refusal :=
  .next (s.pushThen s.pc (fun t => t.setPc (zextAddr nnn)))

/-- `jump-plus-v0 nnn` (R83): the sum is not reduced to 12 bits. -/
def execJumpPlusV0 (nnn : BitVec 12) (s : State) : Host.Outcome State Fault Refusal :=
  .next (s.setPc (zextAddr nnn + zextByte (s.reg 0)))

/-- `skip-eq-imm Vx, kk` (R85). -/
def execSkipEqImm (x : Reg) (kk : Byte) (s : State) : Host.Outcome State Fault Refusal :=
  .next (s.skipIf (s.reg x == kk))

/-- `skip-ne-imm Vx, kk` (R86). -/
def execSkipNeImm (x : Reg) (kk : Byte) (s : State) : Host.Outcome State Fault Refusal :=
  .next (s.skipIf (s.reg x != kk))

/-- `skip-eq-reg Vx, Vy` (R87). -/
def execSkipEqReg (x y : Reg) (s : State) : Host.Outcome State Fault Refusal :=
  .next (s.skipIf (s.reg x == s.reg y))

/-- `skip-ne-reg Vx, Vy` (R88). -/
def execSkipNeReg (x y : Reg) (s : State) : Host.Outcome State Fault Refusal :=
  .next (s.skipIf (s.reg x != s.reg y))

end Sys2Proof.Machine
end

