-- ==== Sys2Proof/Machine/Draw.lean ====
section
/-! DEFINITION. Display instructions (43_display.md). -/

namespace Sys2Proof.Machine

/-- `clear-display` (R141). -/
def execClearDisplay (s : State) : Host.Outcome State Fault Refusal := .next (s.setDisp Display.clear)

/-- The pixels and the flag of a draw whose sprite rows have been read (R142): the coordinates were read first, the flag
is written last. -/
def State.drawRows (s : State) (x0 y0 : Byte) (rows : List Byte) : State :=
  let r := s.disp.drawSprite x0.toNat y0.toNat rows
  (s.setDisp r.1).setReg 0xF (flagByte r.2)

/-- `draw Vx, Vy, n` (R142). -/
def execDraw (x y : Reg) (n : Fin 16) (s : State) : Host.Outcome State Fault Refusal :=
  .next (s.memReadThen s.i n.val (fun rows => s.drawRows (s.reg x) (s.reg y) rows))

end Sys2Proof.Machine
end

