-- ==== Sys2Proof/Machine/IndexMemory.lean ====
section
/-! DEFINITION. Index register and memory transfer (42_index_memory.md). -/

namespace Sys2Proof.Machine

/-- `load-index nnn` (R120). -/
def execLoadIndex (nnn : BitVec 12) (s : State) : Host.Outcome State Fault Refusal := .next (s.setIndex (zextAddr nnn))

/-- `add-index Vx` (R121): modulo 65536, no flag. -/
def execAddIndex (x : Reg) (s : State) : Host.Outcome State Fault Refusal :=
  .next (s.setIndex (s.i + zextByte (s.reg x)))

/-- `load-font-addr Vx` (R122). -/
def execLoadFontAddr (x : Reg) (s : State) : Host.Outcome State Fault Refusal :=
  .next (s.setIndex (glyphAddr (s.reg x)))

/-- `store-bcd Vx` (R123). -/
def execStoreBcd (x : Reg) (s : State) : Host.Outcome State Fault Refusal :=
  .next (s.memWrite s.i (bcdDigits (s.reg x)))

/-- `store-regs Vx` (R124). -/
def execStoreRegs (x : Reg) (s : State) : Host.Outcome State Fault Refusal :=
  .next (s.memWrite s.i (s.regsThrough x))

/-- `load-regs Vx` (R125). -/
def execLoadRegs (x : Reg) (s : State) : Host.Outcome State Fault Refusal :=
  .next (s.memReadThen s.i (countThrough x) (fun b => s.loadRegsFrom b))

end Sys2Proof.Machine
end

