-- ==== Sys2Proof/Machine/KeypadTimers.lean ====
section
/-! DEFINITION. Keypad and timer instructions (44_keypad_timers.md). -/

namespace Sys2Proof.Machine

/-- `skip-key-pressed Vx` (R151). -/
def execSkipKeyPressed (x : Reg) (s : State) : Host.Outcome State Fault Refusal :=
  .next (s.skipIf (s.keyHeld (s.reg x)))

/-- `skip-key-not-pressed Vx` (R157). -/
def execSkipKeyNotPressed (x : Reg) (s : State) : Host.Outcome State Fault Refusal :=
  .next (s.skipIf (!s.keyHeld (s.reg x)))

/-- `await-key Vx` (R152): the register is written by the key press that ends the wait. -/
def execAwaitKey (x : Reg) (s : State) : Host.Outcome State Fault Refusal := .next (s.setMode (.awaitingKey x))

/-- `load-delay Vx` (R154). -/
def execLoadDelay (x : Reg) (s : State) : Host.Outcome State Fault Refusal := .next (s.setReg x s.dt)

/-- `store-delay Vx` (R155). -/
def execStoreDelay (x : Reg) (s : State) : Host.Outcome State Fault Refusal := .next (s.setDelay (s.reg x))

/-- `store-sound Vx` (R156): `TONE` does not change here. -/
def execStoreSound (x : Reg) (s : State) : Host.Outcome State Fault Refusal := .next (s.setSound (s.reg x))

end Sys2Proof.Machine
end

