-- ==== Sys2Proof/Machine/Dispatch.lean ====
section
/-! DEFINITION. The execute phase of a step (30_encoding.md R64): one arm per instruction, one meaning per arm. -/

namespace Sys2Proof.Machine

def exec (i : Instr) (s : State) : Host.Outcome State Fault Refusal :=
  match i with
  -- 40_control_flow.md
  | .ret => Sys2Proof.Machine.execRet s
  | .jump nnn => Sys2Proof.Machine.execJump nnn s
  | .call nnn => Sys2Proof.Machine.execCall nnn s
  | .jumpPlusV0 nnn => Sys2Proof.Machine.execJumpPlusV0 nnn s
  | .skipEqImm x kk => Sys2Proof.Machine.execSkipEqImm x kk s
  | .skipNeImm x kk => Sys2Proof.Machine.execSkipNeImm x kk s
  | .skipEqReg x y _ => Sys2Proof.Machine.execSkipEqReg x y s
  | .skipNeReg x y _ => Sys2Proof.Machine.execSkipNeReg x y s
  -- 41_alu.md
  | .loadImm x kk => Sys2Proof.Machine.execLoadImm x kk s
  | .addImm x kk => Sys2Proof.Machine.execAddImm x kk s
  | .regMove x y => Sys2Proof.Machine.execRegMove x y s
  | .orReg x y => Sys2Proof.Machine.execOr x y s
  | .andReg x y => Sys2Proof.Machine.execAnd x y s
  | .xorReg x y => Sys2Proof.Machine.execXor x y s
  | .addReg x y => Sys2Proof.Machine.execAddReg x y s
  | .subReg x y => Sys2Proof.Machine.execSubReg x y s
  | .shr x _ => Sys2Proof.Machine.execShr x s
  | .subnReg x y => Sys2Proof.Machine.execSubnReg x y s
  | .shl x _ => Sys2Proof.Machine.execShl x s
  | .rand x kk => Sys2Proof.Machine.execRand x kk s
  -- 42_index_memory.md
  | .loadIndex nnn => Sys2Proof.Machine.execLoadIndex nnn s
  | .addIndex x => Sys2Proof.Machine.execAddIndex x s
  | .loadFontAddr x => Sys2Proof.Machine.execLoadFontAddr x s
  | .storeBcd x => Sys2Proof.Machine.execStoreBcd x s
  | .storeRegs x => Sys2Proof.Machine.execStoreRegs x s
  | .loadRegs x => Sys2Proof.Machine.execLoadRegs x s
  -- 43_display.md
  | .clearDisplay => Sys2Proof.Machine.execClearDisplay s
  | .draw x y n => Sys2Proof.Machine.execDraw x y n s
  -- 44_keypad_timers.md
  | .skipKeyPressed x => Sys2Proof.Machine.execSkipKeyPressed x s
  | .skipKeyNotPressed x => Sys2Proof.Machine.execSkipKeyNotPressed x s
  | .awaitKey x => Sys2Proof.Machine.execAwaitKey x s
  | .loadDelay x => Sys2Proof.Machine.execLoadDelay x s
  | .storeDelay x => Sys2Proof.Machine.execStoreDelay x s
  | .storeSound x => Sys2Proof.Machine.execStoreSound x s

end Sys2Proof.Machine
end

