-- ==== Sys2Proof/Machine/Events.lean ====
section
/-! DEFINITION. The events other than `Step` (60_exceptions.md R178, R181; 44_keypad_timers.md R153) and the choice of
the next event (70_reset_and_hazards.md R207). -/

namespace Sys2Proof.Machine

/-- The three kinds of event (R178). -/
inductive Event where
  | step
  | timerTick
  | keyPress (k : Key)
  deriving DecidableEq, Repr

/-- A timer counts down by one and stops at 0 (R181). -/
def countDown (t : Byte) : Byte := if t = 0x00#8 then t else t - 1#8

/-- The timers of a tick count down, unless the machine awaits a key and `TIMERS_RUN_WHILE_AWAITING` is false (R181). -/
def State.timersRun (s : State) : Bool :=
  match s.mode with
  | .running => true
  | .awaitingKey _ => s.cfg.timersRunWhileAwaiting
  | .faulted _ => false

/-- Both timers down by one, where they run. -/
def State.countTimers (s : State) : State :=
  if s.timersRun then (s.setDelay (countDown s.dt)).setSound (countDown s.st) else s

/-- `TONE <- (1 if ST != 0 else 0)`, then `paint_request` (R181). -/
def State.driveOutputs (s : State) : State := (s.setTone (s.st != 0x00#8)).setPaint true

/-- `TimerTick` (R181). -/
def State.timerTick (s : State) : State :=
  match s.mode with
  | .faulted _ => s
  | .awaitingKey _ => s.countTimers.driveOutputs
  | .running => s.countTimers.driveOutputs

/-- `KeyPress(k)` (44_keypad_timers.md R153): completes a pending await-key, otherwise nothing. -/
def State.keyPress (s : State) (k : Key) : State :=
  match s.mode with
  | .awaitingKey x => (s.setReg x (zextKey k)).setMode .running
  | .running => s
  | .faulted _ => s

/-- A frame is in progress or is asked for (R207). Between frames the batch position is 0, and a frame begins only when
`frame_strobe` is asserted; inside a frame the strobe is not looked at (assumption 4). -/
def State.frameOn (s : State) : Bool := s.batchPos != 0 || s.ports.frameStrobe

/-- The frame sequencer's event, if it has one: a step slot while the batch has slots left, then the timer tick (R207). -/
def State.sequencerEvent (s : State) : Option Event :=
  if s.frameOn then some (if s.batchPos < s.cfg.stepsPerFrame then .step else .timerTick) else none

/-- The event of a machine that awaits a key: a key press that is shown, unless the sequencer has an event and goes first;
else the sequencer's (60_exceptions.md R183). -/
def State.awaitingEvent (s : State) : Option Event :=
  match s.ports.keyPress with
  | some k => if s.ports.keyFirst || s.sequencerEvent.isNone then some (.keyPress k) else s.sequencerEvent
  | none => s.sequencerEvent

/-- The next event, if there is one. A key press is looked for only while a key is awaited, since it has no effect at any
other time (R153, assumption 3). No event follows a fault (60_exceptions.md R174, R176). -/
def State.nextEvent (s : State) : Option Event :=
  match s.mode with
  | .running => s.sequencerEvent
  | .awaitingKey _ => s.awaitingEvent
  | .faulted _ => none

/-- The output `fault`: the cause and info of `MODE = Faulted` (10_state.md R21, R173). -/
def State.faultOutput (s : State) : Option Fault :=
  match s.mode with
  | .faulted f => some f
  | .running => none
  | .awaitingKey _ => none

/-- A step slot is used up; the paint pulse is over. -/
def State.takeSlot (s : State) : State := (s.setBatchPos (s.batchPos + 1)).setPaint false

/-- The batch is over: the next frame starts with all its slots. -/
def State.endBatch (s : State) : State := (s.setBatchPos 0).setPaint false

/-- No event: the block waits for the next frame or a key, and only what the inputs show moves on; a faulted machine stays
exactly as it is (60_exceptions.md R176). -/
def State.idle (s : State) : State :=
  match s.mode with
  | .running => (s.setPaint false).sampleInputs
  | .awaitingKey _ => (s.setPaint false).sampleInputs
  | .faulted _ => s

end Sys2Proof.Machine
end

