-- ==== Sys2Proof/Machine/Cycle.lean ====
section
/-! DEFINITION. The `Step` event (30_encoding.md R64) and one event of the machine (60_exceptions.md R178). -/

namespace Sys2Proof.Machine

/-- Decode and execute the word `w`; `PC` has been advanced (R64, R65, R71). -/
def runWord (w : Word) (s : State) : Host.Outcome State Fault Refusal :=
  match decodeWord w with
  | .ok i => exec i s
  | .error _ => .next (s.raise (.unknownOpcode w))

/-- `Step()` (R64): fetch, advance, decode, execute; nothing at all unless the machine is running. -/
def State.stepEvent (s : State) : Host.Outcome State Fault Refusal :=
  match s.mode with
  | .running =>
    if accessOk s.cfg s.pc 2 then runWord s.fetchWord s.advancePc
    else .next (s.raise (.memoryOutOfRange s.pc 2))
  | .awaitingKey _ => .next s
  | .faulted _ => .next s

/-- One event, after which the input ports show what comes next; or a turn without an event. -/
def State.runEvent (s : State) : Host.Outcome State Fault Refusal :=
  match s.nextEvent with
  | some .step => onNext State.sampleInputs s.takeSlot.stepEvent
  | some .timerTick => .next s.endBatch.timerTick.sampleInputs
  | some (.keyPress k) => .next ((s.setPaint false).keyPress k).sampleInputs
  | none => .next s.idle

end Sys2Proof.Machine
end

