-- ==== Sys2Proof/Machine/Loader.lean ====
section
/-! DEFINITION. Loading (70_reset_and_hazards.md R202, R203, R205): what the host does between reset and the first
frame. -/

namespace Sys2Proof.Machine

/-- `loadFontSet()` (R202). -/
def State.loadFontSet (s : State) : State := s.setMem (s.mem.writeFrom fontBase 0 s.cfg.fontTable.toList)

/-- `loadProgram(bytes)` (R203): a too large image writes nothing and leaves the machine `Faulted`, so that no step may
ever start. -/
def State.loadProgram (s : State) (image : List Byte) : State :=
  if image.length ≤ programMax then s.setMem (s.mem.writeFrom programBase 0 image)
  else s.raise (.programTooLarge image.length)

/-- The boot sequence (R205): reset, font table, program. -/
def State.boot (s : State) (image : List Byte) : State := s.hostReset.loadFontSet.loadProgram image

end Sys2Proof.Machine
end

