-- ==== Sys2Proof/Machine/Step.lean ====
section
/-! DEFINITION. The step of the machine, and the placing of an instruction where it fetches next. -/

namespace Sys2Proof.Machine

/-- One event of the machine (60_exceptions.md R178), or a turn spent waiting for one (assumption 4). -/
def step (s : State) : Host.Outcome State Fault Refusal := s.runEvent

/-- `s` with the instruction word `w` stored where the next step fetches (assumption 10). The word goes to `PC`; what
keeps the next event from being a `Step` that fetches there is mended: the mode is `Running`, the batch has a slot left,
between frames `frame_strobe` is asserted, and a `PC` no fetch can reach becomes 0x200. At reset the two bytes and the
strobe change. -/
def State.withFetchWord (s : State) (nbits w : Nat) : State :=
  let word : Word := BitVec.ofNat 16 (w % 2 ^ nbits)
  let pc := if accessOk s.cfg s.pc 2 then s.pc else programBase
  let pos := if s.batchPos < s.cfg.stepsPerFrame then s.batchPos else 0
  { s with
    mem := s.mem.writeFrom pc 0 [highByte word, lowByte word]
    pc := pc
    mode := .running
    batchPos := pos
    scripted := if pos = 0 then { s.ports with frameStrobe := true } :: s.scripted.tail else s.scripted
    cfg := { s.cfg with stepsPerFrame := if s.cfg.stepsPerFrame = 0 then 1 else s.cfg.stepsPerFrame } }

end Sys2Proof.Machine
end

