-- ==== Sys2Proof/Safety.lean ====
section
/-! DEFINITION. What counts as a safe run, the invariant of the machine, and the words the claims use. -/

namespace Sys2Proof.Machine

/-- A run that reaches such a state has gone wrong; it is never final (60_exceptions.md R176). -/
def State.hasFaulted (s : State) : Bool := s.faultOutput.isSome

/-- `s` is safe for `k` more steps: none of them ends in a faulted state or stops. -/
def safeFor : Nat → State → Prop
  | 0, s => s.hasFaulted = false
  | k + 1, s => s.hasFaulted = false ∧ ∃ t, step s = .next t ∧ safeFor k t

/-! ## Words for frames -/

/-- The pieces of a state that a frame speaks of; `sequencer` is the batch position and the paint output, `inputs` the
input ports and the sample number. -/
inductive Piece where
  | regs | memory | index | pc | stack | delay | sound | display | mode | tone | sequencer | inputs | params
  deriving DecidableEq, Repr

/-- The byte at address `a` of a state. -/
def State.byte (s : State) (a : Nat) : Byte := s.mem.read a

/-- A piece of `t` is as it is in `s`; memory byte by byte. -/
def Piece.same (s t : State) : Piece → Prop
  | .regs => ∀ j, t.reg j = s.reg j
  | .memory => ∀ a, t.byte a = s.byte a
  | .index => t.i = s.i
  | .pc => t.pc = s.pc
  | .stack => t.stack = s.stack
  | .delay => t.dt = s.dt
  | .sound => t.st = s.st
  | .display => t.disp = s.disp
  | .mode => t.mode = s.mode
  | .tone => t.tone = s.tone
  | .sequencer => t.batchPos = s.batchPos ∧ t.paintRequest = s.paintRequest
  | .inputs => t.scripted = s.scripted ∧ t.time = s.time
  | .params => t.cfg = s.cfg

/-- Every piece but those listed is as before. -/
def Frame (changed : List Piece) (s t : State) : Prop := ∀ p, p ∉ changed → p.same s t

/-- Every register but those listed is as before. -/
def sameRegsBut (l : List Reg) (s t : State) : Prop := ∀ j, j ∉ l → t.reg j = s.reg j

/-- The `n` bytes from `addr` can be accessed (20_memory.md R45): addresses wrap, or the last one is at most 0xFFF. -/
def canAccess (s : State) (addr : Word) (n : Nat) : Prop :=
  s.cfg.oobPolicy = .wrap ∨ n = 0 ∨ addr.toNat + n - 1 ≤ 0xFFF

/-- A set bit of the `n`-row sprite at `I`, drawn at column `x0` and row `y0`, falls on row `r` and column `c` of the
display (43_display.md R142 to R144). -/
def spriteCovers (s : State) (x0 y0 : Byte) (n : Nat) (r : Fin 32) (c : Fin 64) : Prop :=
  ∃ k j, k < n ∧ j < 8 ∧ (y0.toNat + k) % 32 = r.val ∧ (x0.toNat + j) % 64 = c.val ∧
    (s.byte (byteAddr s.i k)).getLsbD (7 - j) = true

/-- A frame is in progress, or `frame_strobe` asks for one (70_reset_and_hazards.md R207). -/
def State.frameDue (s : State) : Prop := 0 < s.batchPos ∨ s.ports.frameStrobe = true

/-- No key press takes this turn: none is awaited, none is shown, or the sequencer has an event and goes first
(44_keypad_timers.md R153, 60_exceptions.md R183). -/
def State.noPressTaken (s : State) : Prop :=
  (∀ x, s.mode ≠ .awaitingKey x) ∨ s.ports.keyPress = none ∨ (s.ports.keyFirst = false ∧ s.frameDue)

/-- `t` has the timers of `s` after one timer tick (60_exceptions.md R181): both down by one and never below 0, unless a key
is awaited and TIMERS_RUN_WHILE_AWAITING is false; the tone follows the new `ST`. -/
def timersTicked (s t : State) : Prop :=
  ((s.mode = .running ∨ (∃ x, s.mode = .awaitingKey x) ∧ s.cfg.timersRunWhileAwaiting = true) →
    t.dt.toNat = s.dt.toNat - 1 ∧ t.st.toNat = s.st.toNat - 1) ∧
  ((∃ x, s.mode = .awaitingKey x) → s.cfg.timersRunWhileAwaiting = false → t.dt = s.dt ∧ t.st = s.st) ∧
  (t.tone = true ↔ t.st ≠ 0)

/-! ## Invariants -/

/-- The stack is within its capacity (10_state.md R15). -/
def State.stackBounded (s : State) : Prop :=
  match s.cfg.stackCapacity with
  | none => True
  | some cap => s.stack.length ≤ cap

/-- The invariant of the machine: memory is in canonical form, the stack is within its capacity (R15), and no more slots
of the batch are used than it has (70_reset_and_hazards.md R207). -/
def State.Inv (s : State) : Prop :=
  s.mem.wf = true ∧ s.stackBounded ∧ s.batchPos ≤ s.cfg.stepsPerFrame

/-- No `PC` arithmetic has wrapped (10_state.md R14): `PC` is at most 0x10FE and every return address at most 0x1000. -/
def State.PcInv (s : State) : Prop := s.pc.toNat ≤ 0x10FE ∧ ∀ w ∈ s.stack, w.toNat ≤ 0x1000

/-! ## What each instruction may write (10_state.md, the table of §1 and R12; 20_memory.md R43; 42_index_memory.md R126) -/

/-- The registers an instruction writes: its destination, and `V[0xF]` where it writes a flag (R12). -/
def writtenRegs : Instr → List Reg
  | .clearDisplay => []
  | .ret => []
  | .jump _ => []
  | .call _ => []
  | .skipEqImm _ _ => []
  | .skipNeImm _ _ => []
  | .skipEqReg _ _ _ => []
  | .loadImm x _ => [x]
  | .addImm x _ => [x]
  | .regMove x _ => [x]
  | .orReg x _ => [x]
  | .andReg x _ => [x]
  | .xorReg x _ => [x]
  | .addReg x _ => [x, 0xF]
  | .subReg x _ => [x, 0xF]
  | .shr x _ => [x, 0xF]
  | .subnReg x _ => [x, 0xF]
  | .shl x _ => [x, 0xF]
  | .skipNeReg _ _ _ => []
  | .loadIndex _ => []
  | .jumpPlusV0 _ => []
  | .rand x _ => [x]
  | .draw _ _ _ => [0xF]
  | .skipKeyPressed _ => []
  | .skipKeyNotPressed _ => []
  | .loadDelay x => [x]
  | .awaitKey _ => []
  | .storeDelay _ => []
  | .storeSound _ => []
  | .addIndex _ => []
  | .loadFontAddr _ => []
  | .storeBcd _ => []
  | .storeRegs _ => []
  | .loadRegs x => (List.finRange 16).filter (fun j => decide (j ≤ x))

/-- The pieces of state an instruction may change, `PC` beyond the advance of every step; `mode` stands where it may
fault or waits for a key. -/
def writtenPieces : Instr → List Piece
  | .clearDisplay => [.display]
  | .ret => [.pc, .stack, .mode]
  | .jump _ => [.pc]
  | .call _ => [.pc, .stack, .mode]
  | .skipEqImm _ _ => [.pc]
  | .skipNeImm _ _ => [.pc]
  | .skipEqReg _ _ _ => [.pc]
  | .loadImm _ _ => [.regs]
  | .addImm _ _ => [.regs]
  | .regMove _ _ => [.regs]
  | .orReg _ _ => [.regs]
  | .andReg _ _ => [.regs]
  | .xorReg _ _ => [.regs]
  | .addReg _ _ => [.regs]
  | .subReg _ _ => [.regs]
  | .shr _ _ => [.regs]
  | .subnReg _ _ => [.regs]
  | .shl _ _ => [.regs]
  | .skipNeReg _ _ _ => [.pc]
  | .loadIndex _ => [.index]
  | .jumpPlusV0 _ => [.pc]
  | .rand _ _ => [.regs]
  | .draw _ _ _ => [.regs, .display, .mode]
  | .skipKeyPressed _ => [.pc]
  | .skipKeyNotPressed _ => [.pc]
  | .loadDelay _ => [.regs]
  | .awaitKey _ => [.mode]
  | .storeDelay _ => [.delay]
  | .storeSound _ => [.sound]
  | .addIndex _ => [.index]
  | .loadFontAddr _ => [.index]
  | .storeBcd _ => [.memory, .mode]
  | .storeRegs _ => [.memory, .mode]
  | .loadRegs _ => [.regs, .mode]

/-- How many bytes an instruction stores, at `I` and on (R43): none but for the two stores. -/
def storedCount : Instr → Nat
  | .storeBcd _ => 3
  | .storeRegs x => x.val + 1
  | .clearDisplay => 0
  | .ret => 0
  | .jump _ => 0
  | .call _ => 0
  | .skipEqImm _ _ => 0
  | .skipNeImm _ _ => 0
  | .skipEqReg _ _ _ => 0
  | .loadImm _ _ => 0
  | .addImm _ _ => 0
  | .regMove _ _ => 0
  | .orReg _ _ => 0
  | .andReg _ _ => 0
  | .xorReg _ _ => 0
  | .addReg _ _ => 0
  | .subReg _ _ => 0
  | .shr _ _ => 0
  | .subnReg _ _ => 0
  | .shl _ _ => 0
  | .skipNeReg _ _ _ => 0
  | .loadIndex _ => 0
  | .jumpPlusV0 _ => 0
  | .rand _ _ => 0
  | .draw _ _ _ => 0
  | .skipKeyPressed _ => 0
  | .skipKeyNotPressed _ => 0
  | .loadDelay _ => 0
  | .awaitKey _ => 0
  | .storeDelay _ => 0
  | .storeSound _ => 0
  | .addIndex _ => 0
  | .loadFontAddr _ => 0
  | .loadRegs _ => 0

/-- The fault an instruction's execution may raise, from the state it starts in (60_exceptions.md R170, R183). -/
def possibleFault (s : State) : Instr → Option Fault
  | .ret => some .stackUnderflow
  | .call _ => some .stackOverflow
  | .draw _ _ n => some (.memoryOutOfRange s.i n.val)
  | .storeBcd _ => some (.memoryOutOfRange s.i 3)
  | .storeRegs x => some (.memoryOutOfRange s.i (x.val + 1))
  | .loadRegs x => some (.memoryOutOfRange s.i (x.val + 1))
  | .clearDisplay => none
  | .jump _ => none
  | .skipEqImm _ _ => none
  | .skipNeImm _ _ => none
  | .skipEqReg _ _ _ => none
  | .loadImm _ _ => none
  | .addImm _ _ => none
  | .regMove _ _ => none
  | .orReg _ _ => none
  | .andReg _ _ => none
  | .xorReg _ _ => none
  | .addReg _ _ => none
  | .subReg _ _ => none
  | .shr _ _ => none
  | .subnReg _ _ => none
  | .shl _ _ => none
  | .skipNeReg _ _ _ => none
  | .loadIndex _ => none
  | .jumpPlusV0 _ => none
  | .rand _ _ => none
  | .skipKeyPressed _ => none
  | .skipKeyNotPressed _ => none
  | .loadDelay _ => none
  | .awaitKey _ => none
  | .storeDelay _ => none
  | .storeSound _ => none
  | .addIndex _ => none
  | .loadFontAddr _ => none

end Sys2Proof.Machine
end

