-- ==== Sys2Proof/Certificates/Slice0/Obligations.lean ====
section
/-! DEFINITION. The statements for the provers. "The spec's decision D<n>" is row D<n> of 92_eei_decisions.md: a
statement whose docstring names one rests on a choice the spec marks as its own. -/

section

open Sys2Proof Sys2Proof.Machine

/-! ## 41_alu.md: register moves and arithmetic -/

/-- R101: load-imm writes `kk` to Vx, whichever register x names, and changes nothing else; its word is 0x6xkk (the
opcode values are the rule's own text, which the spec takes from general knowledge, R74). -/
def Obligations.LoadImmWritesTheImmediate : Prop :=
  ∀ (x : Reg) (kk : Byte),
    (∀ w : Word, w.toNat = 0x6000 + x.val * 0x100 + kk.toNat → decodeWord w = .ok (.loadImm x kk)) ∧
    (∀ s : State, ∃ t, exec (.loadImm x kk) s = .next t ∧
      t.reg x = kk ∧ sameRegsBut [x] s t ∧ Frame [.regs] s t)

/-- R102: add-imm adds modulo 256 and writes no flag: VF changes only when x names it; its word is 0x7xkk. -/
def Obligations.AddImmWrapsAndTouchesNoFlag : Prop :=
  ∀ (x : Reg) (kk : Byte),
    (∀ w : Word, w.toNat = 0x7000 + x.val * 0x100 + kk.toNat → decodeWord w = .ok (.addImm x kk)) ∧
    (∀ s : State, ∃ t, exec (.addImm x kk) s = .next t ∧
      (t.reg x).toNat = ((s.reg x).toNat + kk.toNat) % 256 ∧ sameRegsBut [x] s t ∧ Frame [.regs] s t)

/-- 41_alu.md section 3: reg-move, or, and, xor bit by bit; no flag. The individual meanings are the spec's inference
("[derived: from the class names]"). -/
def Obligations.MoveAndLogicResults : Prop :=
  ∀ (s : State) (x y : Reg),
    (∃ t, exec (.regMove x y) s = .next t ∧ t.reg x = s.reg y ∧ sameRegsBut [x] s t ∧ Frame [.regs] s t) ∧
    (∃ t, exec (.orReg x y) s = .next t ∧
      (∀ k, (t.reg x).getLsbD k = ((s.reg x).getLsbD k || (s.reg y).getLsbD k)) ∧
      sameRegsBut [x] s t ∧ Frame [.regs] s t) ∧
    (∃ t, exec (.andReg x y) s = .next t ∧
      (∀ k, (t.reg x).getLsbD k = ((s.reg x).getLsbD k && (s.reg y).getLsbD k)) ∧
      sameRegsBut [x] s t ∧ Frame [.regs] s t) ∧
    (∃ t, exec (.xorReg x y) s = .next t ∧
      (∀ k, (t.reg x).getLsbD k = ((s.reg x).getLsbD k ^^ (s.reg y).getLsbD k)) ∧
      sameRegsBut [x] s t ∧ Frame [.regs] s t)

/-- add-reg: the sum modulo 256 in Vx and the carry in VF; with x = 0xF the sum overwrites the flag, by the spec's
decision D5. -/
def Obligations.AddRegSumAndCarry : Prop :=
  ∀ (s : State) (x y : Reg), ∃ t, exec (.addReg x y) s = .next t ∧
    (t.reg x).toNat = ((s.reg x).toNat + (s.reg y).toNat) % 256 ∧
    (x ≠ 0xF → (t.reg 0xF).toNat = if (s.reg x).toNat + (s.reg y).toNat > 255 then 1 else 0) ∧
    sameRegsBut [x, 0xF] s t ∧ Frame [.regs] s t

/-- sub-reg and subn-reg: the difference modulo 256 in Vx and the strict comparison in VF (equal operands give 0); with
x = 0xF the difference overwrites the flag, by the spec's decision D5. -/
def Obligations.SubtractionsAndTheirFlags : Prop :=
  ∀ (s : State) (x y : Reg),
    (∃ t, exec (.subReg x y) s = .next t ∧
      (t.reg x).toNat = ((s.reg x).toNat + 256 - (s.reg y).toNat) % 256 ∧
      (x ≠ 0xF → (t.reg 0xF).toNat = if (s.reg x).toNat > (s.reg y).toNat then 1 else 0) ∧
      sameRegsBut [x, 0xF] s t ∧ Frame [.regs] s t) ∧
    (∃ t, exec (.subnReg x y) s = .next t ∧
      (t.reg x).toNat = ((s.reg y).toNat + 256 - (s.reg x).toNat) % 256 ∧
      (x ≠ 0xF → (t.reg 0xF).toNat = if (s.reg y).toNat > (s.reg x).toNat then 1 else 0) ∧
      sameRegsBut [x, 0xF] s t ∧ Frame [.regs] s t)

/-- shr and shl, for every value of the ignored `y` field: the bit shifted out goes to VF and the shifted value to Vx.
shl's flag is 0 or 1, or 0 or 128 when SHL_FLAG_NORMALISED is false (decision D6); its result clause is the spec's
inference, and x = 0xF follows decision D5. -/
def Obligations.ShiftsAndTheirFlags : Prop :=
  ∀ (s : State) (x y : Reg),
    (∃ t, exec (.shr x y) s = .next t ∧
      (t.reg x).toNat = (s.reg x).toNat / 2 ∧
      (x ≠ 0xF → (t.reg 0xF).toNat = (s.reg x).toNat % 2) ∧
      sameRegsBut [x, 0xF] s t ∧ Frame [.regs] s t) ∧
    (∃ t, exec (.shl x y) s = .next t ∧
      (t.reg x).toNat = 2 * (s.reg x).toNat % 256 ∧
      (x ≠ 0xF → (t.reg 0xF).toNat =
        (s.reg x).toNat / 128 * (if s.cfg.shlFlagNormalised then 1 else 128)) ∧
      sameRegsBut [x, 0xF] s t ∧ Frame [.regs] s t)

/-- rand, for EVERY byte at the random port (a free value, assumption 2; the spec's decision D24): Vx takes the byte
masked by `kk`. -/
def Obligations.RandMasksAFreeByte : Prop :=
  ∀ (s : State) (x : Reg) (kk r : Byte), s.ports.randByte = r → ∃ t, exec (.rand x kk) s = .next t ∧
    (∀ k, (t.reg x).getLsbD k = (r.getLsbD k && kk.getLsbD k)) ∧ sameRegsBut [x] s t ∧ Frame [.regs] s t

/-! ## 40_control_flow.md -/

/-- return pops the most recent entry into `PC`, all 16 bits, or raises StackUnderflow (40_control_flow.md section 2)
with nothing else changed (the spec's decision D11). -/
def Obligations.ReturnPopsOrUnderflows : Prop :=
  ∀ (s : State),
    (s.stack = [] → ∃ t, exec .ret s = .next t ∧ t.mode = .faulted .stackUnderflow ∧ Frame [.mode] s t) ∧
    (∀ w rest, s.stack = w :: rest → ∃ t, exec .ret s = .next t ∧
      t.pc = w ∧ t.stack = rest ∧ Frame [.pc, .stack] s t)

/-- jump sets `PC` to nnn, zero-extended, and changes nothing else. -/
def Obligations.JumpSetsThePc : Prop :=
  ∀ (s : State) (nnn : BitVec 12), ∃ t, exec (.jump nnn) s = .next t ∧
    t.pc.toNat = nnn.toNat ∧ Frame [.pc] s t

/-- call pushes the advanced `PC` and jumps, or raises StackOverflow when the stack holds STACK_CAPACITY entries, with
nothing else changed (the spec's decision D2); with no capacity it never overflows. -/
def Obligations.CallPushesOrOverflows : Prop :=
  ∀ (s : State) (nnn : BitVec 12),
    ((∀ cap, s.cfg.stackCapacity = some cap → s.stack.length < cap) → ∃ t, exec (.call nnn) s = .next t ∧
      t.stack = s.pc :: s.stack ∧ t.pc.toNat = nnn.toNat ∧ Frame [.pc, .stack] s t) ∧
    (s.cfg.stackCapacity = some s.stack.length → ∃ t, exec (.call nnn) s = .next t ∧
      t.mode = .faulted .stackOverflow ∧ Frame [.mode] s t)

/-- jump-plus-v0: the sum of nnn and V0 is not reduced to 12 bits (the spec's decision D15). -/
def Obligations.JumpPlusV0AddsUnreduced : Prop :=
  ∀ (s : State) (nnn : BitVec 12), ∃ t, exec (.jumpPlusV0 nnn) s = .next t ∧
    t.pc.toNat = nnn.toNat + (s.reg 0).toNat ∧ Frame [.pc] s t

/-- R85, R86: the skips on an immediate move `PC` two further exactly when their condition holds; their words are
0x3xkk and 0x4xkk. -/
def Obligations.ImmediateSkips : Prop :=
  ∀ (x : Reg) (kk : Byte),
    (∀ w : Word, w.toNat = 0x3000 + x.val * 0x100 + kk.toNat → decodeWord w = .ok (.skipEqImm x kk)) ∧
    (∀ w : Word, w.toNat = 0x4000 + x.val * 0x100 + kk.toNat → decodeWord w = .ok (.skipNeImm x kk)) ∧
    (∀ s : State, ∃ t, exec (.skipEqImm x kk) s = .next t ∧
      t.pc.toNat = (if s.reg x = kk then (s.pc.toNat + 2) % 65536 else s.pc.toNat) ∧ Frame [.pc] s t) ∧
    (∀ s : State, ∃ t, exec (.skipNeImm x kk) s = .next t ∧
      t.pc.toNat = (if s.reg x = kk then s.pc.toNat else (s.pc.toNat + 2) % 65536) ∧ Frame [.pc] s t)

/-- The skips on two registers (40_control_flow.md section 5), whatever the low nibble holds: that decode does not
examine it is the spec's decision D12. -/
def Obligations.RegisterSkips : Prop :=
  ∀ (s : State) (x y : Reg) (low : BitVec 4),
    (∃ t, exec (.skipEqReg x y low) s = .next t ∧
      t.pc.toNat = (if s.reg x = s.reg y then (s.pc.toNat + 2) % 65536 else s.pc.toNat) ∧ Frame [.pc] s t) ∧
    (∃ t, exec (.skipNeReg x y low) s = .next t ∧
      t.pc.toNat = (if s.reg x = s.reg y then s.pc.toNat else (s.pc.toNat + 2) % 65536) ∧ Frame [.pc] s t)

/-- A return at a state whose stack is the one a call left comes back to the address after the call and to the stack
before it, whatever code ran in between (the spec's inference in 40_control_flow.md section 7). -/
def Obligations.ReturnUndoesCall : Prop :=
  ∀ (s : State) (nnn : BitVec 12), (∀ cap, s.cfg.stackCapacity = some cap → s.stack.length < cap) →
    ∃ t, exec (.call nnn) s = .next t ∧ ∀ u : State, u.stack = t.stack →
      ∃ r, exec .ret u = .next r ∧ r.pc = s.pc ∧ r.stack = s.stack ∧ Frame [.pc, .stack] u r

/-! ## 42_index_memory.md -/

/-- R120: load-index sets `I` to nnn, zero-extended; its word is 0xAnnn. -/
def Obligations.LoadIndexSetsI : Prop :=
  ∀ (nnn : BitVec 12),
    (∀ w : Word, w.toNat = 0xA000 + nnn.toNat → decodeWord w = .ok (.loadIndex nnn)) ∧
    (∀ s : State, ∃ t, exec (.loadIndex nnn) s = .next t ∧ t.i.toNat = nnn.toNat ∧ Frame [.index] s t)

/-- add-index wraps modulo 65536 and writes no flag (decision D13); load-font-addr multiplies the whole byte by 5
(decision D14). -/
def Obligations.IndexArithmetic : Prop :=
  ∀ (s : State) (x : Reg),
    (∃ t, exec (.addIndex x) s = .next t ∧
      t.i.toNat = (s.i.toNat + (s.reg x).toNat) % 65536 ∧ Frame [.index] s t) ∧
    (∃ t, exec (.loadFontAddr x) s = .next t ∧
      t.i.toNat = 5 * (s.reg x).toNat ∧ Frame [.index] s t)

/-- store-bcd writes the three decimal digits, hundreds first, at `I` and on; `I`, the registers and every other byte
keep their values (bounds: decision D1). -/
def Obligations.StoreBcdWritesTheDigits : Prop :=
  ∀ (s : State) (x : Reg), canAccess s s.i 3 → ∃ t, exec (.storeBcd x) s = .next t ∧
    (t.byte (byteAddr s.i 0)).toNat = (s.reg x).toNat / 100 ∧
    (t.byte (byteAddr s.i 1)).toNat = (s.reg x).toNat / 10 % 10 ∧
    (t.byte (byteAddr s.i 2)).toNat = (s.reg x).toNat % 10 ∧
    (∀ a, (∀ j, j < 3 → a ≠ byteAddr s.i j) → t.byte a = s.byte a) ∧ Frame [.memory] s t

/-- store-regs writes V0 to Vx at `I` and on, and no other byte (bounds: decision D1). -/
def Obligations.StoreRegsWritesTheRange : Prop :=
  ∀ (s : State) (x : Reg), canAccess s s.i (x.val + 1) → ∃ t, exec (.storeRegs x) s = .next t ∧
    (∀ j : Reg, j ≤ x → t.byte (byteAddr s.i j.val) = s.reg j) ∧
    (∀ a, (∀ j, j < x.val + 1 → a ≠ byteAddr s.i j) → t.byte a = s.byte a) ∧ Frame [.memory] s t

/-- load-regs loads V0 to Vx from `I` and on; the registers above x keep their values (bounds: decision D1). -/
def Obligations.LoadRegsReadsTheRange : Prop :=
  ∀ (s : State) (x : Reg), canAccess s s.i (x.val + 1) → ∃ t, exec (.loadRegs x) s = .next t ∧
    (∀ j : Reg, j ≤ x → t.reg j = s.byte (byteAddr s.i j.val)) ∧
    (∀ j : Reg, x < j → t.reg j = s.reg j) ∧ Frame [.regs] s t

/-- The round trip of 95_test_vectors.md S9, for every x: a load-regs at any state that has the memory a store-regs left,
the same `I` and the same parameters restores V0 to Vx and leaves the registers above x alone. -/
def Obligations.StoreRegsThenLoadRegsRestores : Prop :=
  ∀ (s : State) (x : Reg), canAccess s s.i (x.val + 1) → ∃ t, exec (.storeRegs x) s = .next t ∧
    ∀ u : State, (∀ a, u.byte a = t.byte a) → u.i = s.i → u.cfg = s.cfg →
      ∃ r, exec (.loadRegs x) u = .next r ∧ (∀ j : Reg, j ≤ x → r.reg j = s.reg j) ∧
        (∀ j : Reg, x < j → r.reg j = u.reg j)

/-- An access that does not fit raises MemoryOutOfRange with the base and the byte count, before any byte or register
moves (decisions D1, D11): draw, store-bcd, store-regs, load-regs. -/
def Obligations.AccessBeyondMemoryFaults : Prop :=
  ∀ (s : State),
    (∀ (x y : Reg) (n : Fin 16), ¬ canAccess s s.i n.val → ∃ t, exec (.draw x y n) s = .next t ∧
      t.mode = .faulted (.memoryOutOfRange s.i n.val) ∧ Frame [.mode] s t) ∧
    (∀ x : Reg, ¬ canAccess s s.i 3 → ∃ t, exec (.storeBcd x) s = .next t ∧
      t.mode = .faulted (.memoryOutOfRange s.i 3) ∧ Frame [.mode] s t) ∧
    (∀ x : Reg, ¬ canAccess s s.i (x.val + 1) → ∃ t, exec (.storeRegs x) s = .next t ∧
      t.mode = .faulted (.memoryOutOfRange s.i (x.val + 1)) ∧ Frame [.mode] s t) ∧
    (∀ x : Reg, ¬ canAccess s s.i (x.val + 1) → ∃ t, exec (.loadRegs x) s = .next t ∧
      t.mode = .faulted (.memoryOutOfRange s.i (x.val + 1)) ∧ Frame [.mode] s t)

/-! ## 43_display.md -/

/-- R141: clear-display turns every cell off and changes nothing else, VF included; its word is 0x00E0. -/
def Obligations.ClearDisplayTurnsAllOff : Prop :=
  decodeWord 0x00E0 = .ok .clearDisplay ∧
  ∀ (s : State), ∃ t, exec .clearDisplay s = .next t ∧
    (∀ (r : Fin 32) (c : Fin 64), t.disp[r][c] = false) ∧ Frame [.display] s t

/-- draw inverts exactly the cells a set sprite bit falls on, each once, and VF tells whether one of them was on. The
wrap is decision D8, the order of reads decision D7, the bit order the spec's general knowledge (43_display.md section
3), the bounds decision D1. -/
def Obligations.DrawInvertsTheSpriteCells : Prop :=
  ∀ (s : State) (x y : Reg) (n : Fin 16), canAccess s s.i n.val → ∃ t, exec (.draw x y n) s = .next t ∧
    (∀ (r : Fin 32) (c : Fin 64),
      (spriteCovers s (s.reg x) (s.reg y) n.val r c → t.disp[r][c] = !s.disp[r][c]) ∧
      (¬ spriteCovers s (s.reg x) (s.reg y) n.val r c → t.disp[r][c] = s.disp[r][c])) ∧
    ((∃ r c, spriteCovers s (s.reg x) (s.reg y) n.val r c ∧ s.disp[r][c] = true) → t.reg 0xF = 1) ∧
    ((∀ r c, spriteCovers s (s.reg x) (s.reg y) n.val r c → s.disp[r][c] = false) → t.reg 0xF = 0) ∧
    sameRegsBut [0xF] s t ∧ Frame [.regs, .display] s t

/-- 95_test_vectors.md S7: drawing the same sprite a second time at the same place restores the display; from a clear
display the first draw reports 0 and the second reports 1 exactly when the sprite has a set bit. -/
def Obligations.DrawTwiceRestoresTheDisplay : Prop :=
  ∀ (s : State) (x y : Reg) (n : Fin 16), canAccess s s.i n.val → ∃ t, exec (.draw x y n) s = .next t ∧
    ∀ u : State, u.disp = t.disp → (∀ a, u.byte a = s.byte a) → u.i = s.i → u.cfg = s.cfg →
      u.reg x = s.reg x → u.reg y = s.reg y →
      ∃ r, exec (.draw x y n) u = .next r ∧ r.disp = s.disp ∧
        ((∀ (a : Fin 32) (b : Fin 64), s.disp[a][b] = false) → t.reg 0xF = 0 ∧
          (r.reg 0xF = 1 ↔ ∃ k j, k < n.val ∧ j < 8 ∧ (s.byte (byteAddr s.i k)).getLsbD j = true))

/-! ## 44_keypad_timers.md -/

/-- The key skips, for EVERY level of the keys (free values, assumption 2): a key above 15 is never held (decision D9);
the direction of each skip is the spec's inference from its name. -/
def Obligations.KeySkips : Prop :=
  ∀ (s : State) (x : Reg) (held : Bool),
    (∀ h : (s.reg x).toNat < 16, s.ports.keyHeld[(s.reg x).toNat] = held) → (16 ≤ (s.reg x).toNat → held = false) →
    (∃ t, exec (.skipKeyPressed x) s = .next t ∧
      t.pc.toNat = (if held then (s.pc.toNat + 2) % 65536 else s.pc.toNat) ∧ Frame [.pc] s t) ∧
    (∃ t, exec (.skipKeyNotPressed x) s = .next t ∧
      t.pc.toNat = (if held then s.pc.toNat else (s.pc.toNat + 2) % 65536) ∧ Frame [.pc] s t)

/-- await-key only enters AwaitingKey(x), and there a Step event does nothing at all (44_keypad_timers.md section 1). -/
def Obligations.AwaitKeySuspends : Prop :=
  ∀ (s : State) (x : Reg), ∃ t, exec (.awaitKey x) s = .next t ∧ t.mode = .awaitingKey x ∧ Frame [.mode] s t ∧
    ∀ u : State, u.mode = .awaitingKey x → u.stepEvent = .next u

/-- A key press while Vx is awaited, where it comes before any event of the sequencer, is captured into Vx and the machine
runs on, with no slot of the batch used; the `PC` stays (decision D23). While the machine runs or has faulted a key press
does nothing. That a turn takes one of two events that are due, in either order, is assumption 4. -/
def Obligations.KeyPressCompletesTheWait : Prop :=
  ∀ (s : State) (k : Key),
    (∀ x, s.mode = .awaitingKey x → s.ports.keyPress = some k → (s.ports.keyFirst = true ∨ ¬ s.frameDue) →
      ∃ t, step s = .next t ∧ t.mode = .running ∧ (t.reg x).toNat = k.val ∧ sameRegsBut [x] s t ∧
        t.batchPos = s.batchPos ∧ Frame [.regs, .mode, .sequencer, .inputs] s t) ∧
    ((∀ x, s.mode ≠ .awaitingKey x) → s.keyPress k = s)

/-- load-delay, store-delay and store-sound move a timer and a register; the tone does not move. The directions are the
spec's inference from the names. -/
def Obligations.TimerMoves : Prop :=
  ∀ (s : State) (x : Reg),
    (∃ t, exec (.loadDelay x) s = .next t ∧ t.reg x = s.dt ∧ sameRegsBut [x] s t ∧ Frame [.regs] s t) ∧
    (∃ t, exec (.storeDelay x) s = .next t ∧ t.dt = s.reg x ∧ Frame [.delay] s t) ∧
    (∃ t, exec (.storeSound x) s = .next t ∧ t.st = s.reg x ∧ Frame [.sound] s t)

/-! ## 60_exceptions.md and 70_reset_and_hazards.md: events, faults, frames -/

/-- The timer tick: both timers down by one and never below 0, unless a key is awaited and TIMERS_RUN_WHILE_AWAITING is
false (decision D10); the tone follows the new ST; the paint request is pulsed; after a fault nothing happens
(decision D11). -/
def Obligations.TimerTickCountsDown : Prop :=
  ∀ (s : State),
    ((s.mode = .running ∨ (∃ x, s.mode = .awaitingKey x) ∧ s.cfg.timersRunWhileAwaiting = true) →
      s.timerTick.dt.toNat = s.dt.toNat - 1 ∧ s.timerTick.st.toNat = s.st.toNat - 1) ∧
    ((∃ x, s.mode = .awaitingKey x) → s.cfg.timersRunWhileAwaiting = false →
      s.timerTick.dt = s.dt ∧ s.timerTick.st = s.st) ∧
    ((∀ f, s.mode ≠ .faulted f) → (s.timerTick.tone = true ↔ s.timerTick.st ≠ 0) ∧
      s.timerTick.paintRequest = true ∧ s.timerTick.batchPos = s.batchPos ∧
      Frame [.delay, .sound, .tone, .sequencer] s s.timerTick) ∧
    ((∃ f, s.mode = .faulted f) → s.timerTick = s)

/-- 95_test_vectors.md S8: with no step slots in a frame, each turn that shows `frame_strobe` is one timer tick and the
others are none: over any script of inputs each timer falls by the number of strobes and stops at 0, and the program does
not move. -/
def Obligations.EmptyFramesOnlyCountDown : Prop :=
  ∀ (s : State), s.cfg.stepsPerFrame = 0 → s.mode = .running → s.batchPos = 0 →
    ∃ t, Host.Core.run Sys2Proof.core s.scripted.length s = .next t ∧
      t.dt.toNat = s.dt.toNat - (s.scripted.filter Inputs.frameStrobe).length ∧
      t.st.toNat = s.st.toNat - (s.scripted.filter Inputs.frameStrobe).length ∧
      t.batchPos = 0 ∧ Frame [.delay, .sound, .tone, .sequencer, .inputs] s t

/-- The step cycle (30_encoding.md section 2; bounds and faults by decisions D1, D11, D26): nothing at all unless
Running; else fetch (a fault leaves `PC` where it is), advance `PC` by 2, decode (an illegal word faults after the advance), execute exactly one instruction. -/
def Obligations.StepCycle : Prop :=
  ∀ (s : State),
    (s.mode ≠ .running → s.stepEvent = .next s) ∧
    (s.mode = .running → ¬ canAccess s s.pc 2 → ∃ t, s.stepEvent = .next t ∧
      t.mode = .faulted (.memoryOutOfRange s.pc 2) ∧ Frame [.mode] s t) ∧
    (s.mode = .running → canAccess s s.pc 2 → ∀ w : Word,
      w.toNat = (s.byte (byteAddr s.pc 0)).toNat * 256 + (s.byte (byteAddr s.pc 1)).toNat →
      (∀ e, decodeWord w = .error e → ∃ t, s.stepEvent = .next t ∧ t.mode = .faulted (.unknownOpcode w) ∧
        t.pc.toNat = (s.pc.toNat + 2) % 65536 ∧ Frame [.mode, .pc] s t) ∧
      (∀ i, decodeWord w = .ok i → ∃ u, s.stepEvent = exec i u ∧
        u.pc.toNat = (s.pc.toNat + 2) % 65536 ∧ Frame [.pc] s u))

/-- A step slot of a running machine is the Step event of the state whose slot is taken, followed by what the inputs show
next: a fetch that does not fit raises MemoryOutOfRange with `PC` where it is; an illegal word raises UnknownOpcode with
`PC` advanced; a legal word, well-formed or not, is executed at the state whose slot is taken and whose `PC` is advanced by
2 (decisions D1, D11, D26). -/
def Obligations.StepRunsTheDecodedInstruction : Prop :=
  ∀ (s : State), s.mode = .running → s.frameDue → s.batchPos < s.cfg.stepsPerFrame →
    step s = onNext State.sampleInputs s.takeSlot.stepEvent ∧
    (¬ canAccess s s.pc 2 → ∃ t, step s = .next t ∧ t.mode = .faulted (.memoryOutOfRange s.pc 2) ∧
      Frame [.mode, .sequencer, .inputs] s t) ∧
    (canAccess s s.pc 2 → ∀ e, decodeWord s.fetchWord = .error e → ∃ t, step s = .next t ∧
      t.mode = .faulted (.unknownOpcode s.fetchWord) ∧ t.pc.toNat = (s.pc.toNat + 2) % 65536 ∧
      Frame [.mode, .pc, .sequencer, .inputs] s t) ∧
    (canAccess s s.pc 2 → ∀ i, decodeWord s.fetchWord = .ok i →
      step s = onNext State.sampleInputs (exec i s.takeSlot.advancePc))

/-- 20_memory.md section 2: below 0xFFF the fetched word has the byte at `PC` in bits 15-8 and the byte at `PC` + 1 in
bits 7-0, odd addresses included (decision D15). -/
def Obligations.FetchIsBigEndian : Prop :=
  ∀ (s : State), s.pc.toNat < 0xFFF →
    s.fetchWord.toNat = (s.byte s.pc.toNat).toNat * 256 + (s.byte (s.pc.toNat + 1)).toNat

/-- While a key is awaited and no press takes the turn, a step slot is used up and nothing of the block changes but the
batch position and the paint output (70_reset_and_hazards.md section 3). That the paint output is off after the slot is the
model's choice (assumption 7). -/
def Obligations.AwaitingSlotsAreUsedUp : Prop :=
  ∀ (s : State) (x : Reg), s.mode = .awaitingKey x → (s.ports.keyPress = none ∨ s.ports.keyFirst = false) →
    s.frameDue → s.batchPos < s.cfg.stepsPerFrame →
    ∃ t, step s = .next t ∧ t.batchPos = s.batchPos + 1 ∧ t.paintRequest = false ∧
      Frame [.sequencer, .inputs] s t

/-- A faulted machine stays exactly as it is, for any number of steps (decision D11). -/
def Obligations.FaultedForever : Prop :=
  ∀ (k : Nat) (s : State) (f : Fault), s.mode = .faulted f → Host.Core.run Sys2Proof.core k s = .next s

/-- The sequencer's bookkeeping, for every event: a step slot is counted, a timer tick ends the batch and pulses the
paint request, a key press uses no slot, a turn without an event changes nothing but the paint output and the inputs, and
no event changes a parameter (decision D18; assumption 1). `TONE` changes at timer ticks only. That the slot of a faulting
step is counted is the model's choice (assumption 6), and so is that the paint output is off after every turn but a tick
(assumption 7). -/
def Obligations.SequencerBookkeeping : Prop :=
  ∀ (s t : State), step s = .next t → t.cfg = s.cfg ∧
    (s.nextEvent = none → t.batchPos = s.batchPos ∧ Frame [.sequencer, .inputs] s t) ∧
    (s.nextEvent = some .step → t.batchPos = s.batchPos + 1 ∧ t.paintRequest = false ∧ t.tone = s.tone) ∧
    (s.nextEvent = some .timerTick → t.batchPos = 0 ∧ t.paintRequest = true ∧ (t.tone = true ↔ t.st ≠ 0)) ∧
    (∀ k, s.nextEvent = some (.keyPress k) → t.batchPos = s.batchPos ∧ t.paintRequest = false ∧ t.tone = s.tone)

/-- Which event comes when (70_reset_and_hazards.md section 3; decision D18), while no key press takes the turn: between
frames, without `frame_strobe`, none, and the block waits; in a frame a step slot as long as the batch has one; then, the
slots used up, the timer tick, which ends the batch. -/
def Obligations.SequencerTakesSlotsThenTicks : Prop :=
  ∀ (s : State), (∀ f, s.mode ≠ .faulted f) → s.noPressTaken →
    (¬ s.frameDue → ∃ t, step s = .next t ∧ t.batchPos = s.batchPos ∧ Frame [.sequencer, .inputs] s t) ∧
    (s.frameDue → s.batchPos < s.cfg.stepsPerFrame → step s = onNext State.sampleInputs s.takeSlot.stepEvent) ∧
    (s.frameDue → s.cfg.stepsPerFrame ≤ s.batchPos → ∃ t, step s = .next t ∧ t.batchPos = 0 ∧ timersTicked s t ∧
      t.paintRequest = true ∧ Frame [.delay, .sound, .tone, .sequencer, .inputs] s t)

/-- One whole frame of a machine that awaits a key (70_reset_and_hazards.md section 3): asked for by one `frame_strobe`,
with no key pressed in it, it uses up all its slots as no-ops and ends with exactly one timer tick. -/
def Obligations.AwaitingFrameTicksOnce : Prop :=
  ∀ (s : State) (x : Reg), s.mode = .awaitingKey x → s.batchPos = 0 → s.ports.frameStrobe = true →
    s.scripted.length = s.cfg.stepsPerFrame + 1 → (∀ p ∈ s.scripted, p.keyPress = none) →
    ∃ t, Host.Core.run Sys2Proof.core (s.cfg.stepsPerFrame + 1) s = .next t ∧ t.batchPos = 0 ∧ timersTicked s t ∧
      Frame [.delay, .sound, .tone, .sequencer, .inputs] s t

/-- Faults are precise (decision D11): whichever instruction raises one, it is the one fault that instruction can raise,
and nothing but the mode has changed. -/
def Obligations.FaultsArePrecise : Prop :=
  ∀ (i : Instr) (s t : State) (f : Fault), (∀ g, s.mode ≠ .faulted g) → exec i s = .next t → t.mode = .faulted f →
    possibleFault s i = some f ∧ Frame [.mode] s t

/-! ## Whole-machine frames, over all instructions -/

/-- No instruction stops the model: every one, on every state, answers a next state. -/
def Obligations.EveryInstructionAnswersNext : Prop :=
  ∀ (i : Instr) (s : State), ∃ t, exec i s = .next t

/-- An instruction writes no register but its destination and, where it writes a flag, VF (10_state.md sections 3 and 4;
decision D27). -/
def Obligations.OnlyTheNamedRegistersChange : Prop :=
  ∀ (i : Instr) (s t : State), exec i s = .next t → sameRegsBut (writtenRegs i) s t

/-- An instruction changes no piece of state but those of its row in 10_state.md section 1: `I` only by the three index
instructions (decision D16), the stack only by call and return, the display only by clear-display and draw, the timers
only by the two stores, `PC` only by control flow. -/
def Obligations.OnlyTheNamedPiecesChange : Prop :=
  ∀ (i : Instr) (s t : State), exec i s = .next t → Frame (writtenPieces i) s t

/-- An instruction changes no byte of memory but the ones it stores at `I` and on; all but store-bcd and store-regs store
none. -/
def Obligations.OnlyTheStoredBytesChange : Prop :=
  ∀ (i : Instr) (s t : State), exec i s = .next t →
    ∀ a, (∀ j, j < storedCount i → a ≠ byteAddr s.i j) → t.byte a = s.byte a

/-- No instruction but rand and the two key skips reads an input port: with other inputs the outcome is the same but for
those inputs. -/
def Obligations.OtherInstructionsReadNoInput : Prop :=
  ∀ (i : Instr) (s : State) (l : List Inputs) (n : Nat), (∀ x kk, i ≠ .rand x kk) → (∀ x, i ≠ .skipKeyPressed x) →
    (∀ x, i ≠ .skipKeyNotPressed x) →
    exec i { s with scripted := l, time := n } = onNext (fun t => { t with scripted := l, time := n }) (exec i s)

/-! ## 30_encoding.md -/

/-- Decoding the encoder's word of a well-formed instruction gives it back, every operand at every value. -/
def Obligations.DecodeEncodeRoundTrip : Prop :=
  ∀ i : Instr, i.wellFormed = true → decodeWord (encode i) = .ok i

/-- The other direction: the encoder's word of what a word decodes to is that word with its don't-care bits 0. -/
def Obligations.EncodeDecodeClearsDontCares : Prop :=
  ∀ (w : Word) (i : Instr), decodeWord w = .ok i → encode i = clearDontCare w

/-- The illegal words are exactly those of the four second-level families that no rule matches, and the decoder reports
the raw word (decision D12; the numeric values are the spec's general knowledge). -/
def Obligations.IllegalWordsExactly : Prop :=
  ∀ (w : Word) (e : DecodeError), decodeWord w = .error e ↔ e = .unknownOpcode w ∧
    ((w.toNat / 4096 = 0x0 ∧ w.toNat ≠ 0x00E0 ∧ w.toNat ≠ 0x00EE) ∨
     (w.toNat / 4096 = 0x8 ∧ 8 ≤ w.toNat % 16 ∧ w.toNat % 16 ≠ 0xE) ∨
     (w.toNat / 4096 = 0xE ∧ w.toNat % 256 ≠ 0x9E ∧ w.toNat % 256 ≠ 0xA1) ∨
     (w.toNat / 4096 = 0xF ∧ w.toNat % 256 ∉ [0x07, 0x0A, 0x15, 0x18, 0x1E, 0x29, 0x33, 0x55, 0x65]))

/-- Words written out from 30_encoding.md's tables, one of each format and each second-level family: eight as section 5
writes them; 0x9AB7 with a low nibble that decode does not examine (section 3, the spec's decision D12); 0xFA99, which no
row of family 0xF matches (section 3). -/
def Obligations.SampleWordsDecode : Prop :=
  decodeWord 0x00E0 = .ok .clearDisplay ∧ decodeWord 0x00EE = .ok .ret ∧
  decodeWord 0x2ABC = .ok (.call 0xABC) ∧ decodeWord 0x3A5C = .ok (.skipEqImm 0xA 0x5C) ∧
  decodeWord 0x8AB7 = .ok (.subnReg 0xA 0xB) ∧ decodeWord 0x9AB7 = .ok (.skipNeReg 0xA 0xB 0x7) ∧
  decodeWord 0xD12F = .ok (.draw 0x1 0x2 0xF) ∧ decodeWord 0xE1A1 = .ok (.skipKeyNotPressed 0x1) ∧
  decodeWord 0xFA65 = .ok (.loadRegs 0xA) ∧ decodeWord 0xFA99 = .error (.unknownOpcode 0xFA99)

/-! ## 20_memory.md -/

/-- Two memories in canonical form that read the same everywhere are the same data. -/
def Obligations.CanonicalMemoriesAreEqual : Prop :=
  ∀ m n : Memory, m.wf = true → n.wf = true → (∀ a, m.read a = n.read a) → m = n

/-- Self-modifying code (the spec's inference in 20_memory.md section 4): two bytes stored at `PC`, at any address whose
access fits, are the word the very next fetch reads. -/
def Obligations.StoreIsSeenByTheNextFetch : Prop :=
  ∀ (s : State) (hi lo : Byte), canAccess s s.pc 2 →
    (s.memWrite s.pc [hi, lo]).fetchWord = wordOfBytes hi lo

/-! ## Reset, loading, invariants -/

/-- Every piece of state at its reset value (10_state.md section 9): MEM, V, I, STACK, DT and ST are zeroed; `PC`, DISP,
MODE, TONE and the batch position are the spec's decisions D3 and D4. -/
def Obligations.ResetValues : Prop :=
  (∀ a, State.reset.byte a = 0) ∧ (∀ j, State.reset.reg j = 0) ∧ State.reset.i = 0 ∧ State.reset.stack = [] ∧
  State.reset.dt = 0 ∧ State.reset.st = 0 ∧ State.reset.pc = 0x0200 ∧
  (∀ (r : Fin 32) (c : Fin 64), State.reset.disp[r][c] = false) ∧
  State.reset.mode = .running ∧ State.reset.tone = false ∧ State.reset.batchPos = 0

/-- Reset from any state, a faulted or awaiting one included, leaves every piece at its reset value; only the
parameters and the inputs stay (decisions D3, D4). -/
def Obligations.HostResetRestoresEverything : Prop :=
  ∀ (s : State), Frame [.params, .inputs] State.reset s.hostReset ∧ s.hostReset.cfg = s.cfg ∧
    s.hostReset.scripted = s.scripted ∧ s.hostReset.time = s.time

/-- After the boot sequence with an image that fits, memory is the font table at 0, the image at 0x200 and 0 elsewhere,
and everything else is as reset left it (70_reset_and_hazards.md section 2; decisions D3, D4, D19, D20). -/
def Obligations.BootLaysOutMemory : Prop :=
  ∀ (s : State) (image : List Byte), image.length ≤ 3584 →
    (∀ j : Fin 80, (s.boot image).byte j.val = s.cfg.fontTable[j]) ∧
    (∀ j, (h : j < image.length) → (s.boot image).byte (0x200 + j) = image[j]) ∧
    (∀ a, 80 ≤ a → (a < 0x200 ∨ 0x200 + image.length ≤ a) → (s.boot image).byte a = 0) ∧
    Frame [.memory] s.hostReset (s.boot image)

/-- An image longer than 3584 bytes raises ProgramTooLarge with its length, writes nothing, and no step ever starts
(decisions D11, D19). -/
def Obligations.OversizedImageStopsTheMachine : Prop :=
  ∀ (s : State) (image : List Byte) (k : Nat), 3584 < image.length →
    (s.loadProgram image).mode = .faulted (.programTooLarge image.length) ∧ Frame [.mode] s (s.loadProgram image) ∧
    Host.Core.run Sys2Proof.core k (s.boot image) = .next (s.boot image)

/-- An instruction placed where the machine fetches is the one the next step runs, from any state (the model's choice,
assumption 10): registers, index, stack, timers and display are those of the state it was placed in, it sees the same keys
and the same random byte, and at reset the `PC` it sees is 0x202. -/
def Obligations.PlacedWordIsRunNext : Prop :=
  ∀ (s : State) (w : Word) (i : Instr), decodeWord w = .ok i →
    ∃ u, step (s.withFetchWord 16 w.toNat) = onNext State.sampleInputs (exec i u) ∧
      Frame [.memory, .pc, .mode, .sequencer, .inputs, .params] s u ∧
      u.ports.keyHeld = s.ports.keyHeld ∧ u.ports.randByte = s.ports.randByte ∧ u.time = s.time ∧
      (canAccess s s.pc 2 → u.pc.toNat = (s.pc.toNat + 2) % 65536)

/-- The invariant holds right after reset. -/
def Obligations.ResetSatisfiesTheInvariant : Prop := State.reset.Inv ∧ State.reset.PcInv

/-- Every step keeps the invariant: memory stays canonical, the stack stays within its capacity, the batch position
stays within the frame. -/
def Obligations.StepKeepsTheInvariant : Prop :=
  ∀ s t : State, s.Inv → step s = .next t → t.Inv

/-- Under OOB_POLICY = fault no `PC` arithmetic ever wraps: every step keeps `PC` at or below 0x10FE and every return
address at or below 0x1000 (the spec's inference in 10_state.md section 5). -/
def Obligations.StepKeepsThePcBelowItsBound : Prop :=
  ∀ s t : State, s.cfg.oobPolicy = .fault → s.PcInv → step s = .next t → t.PcInv

end
end

