-- ==== Sys2Proof/Laws/Decode.lean ====
section
/-! SUPPORT. The fields of a word and the words the encoder packs, as numbers, so that encoding facts are arithmetic. -/

namespace Sys2Proof

theorem fieldOp_toNat (w : Word) : (fieldOp w).toNat = w.toNat / 4096 := by
  have := w.isLt
  simp [fieldOp, Nat.shiftRight_eq_div_pow]
  omega

theorem fieldX_val (w : Word) : (fieldX w).val = w.toNat / 256 % 16 := by
  simp [fieldX, Nat.shiftRight_eq_div_pow]

theorem fieldY_val (w : Word) : (fieldY w).val = w.toNat / 16 % 16 := by
  simp [fieldY, Nat.shiftRight_eq_div_pow]

theorem fieldLow_toNat (w : Word) : (fieldLow w).toNat = w.toNat % 16 := by
  simp [fieldLow]

theorem fieldN_val (w : Word) : (fieldN w).val = w.toNat % 16 := fieldLow_toNat w

theorem fieldKK_toNat (w : Word) : (fieldKK w).toNat = w.toNat % 256 := by
  simp [fieldKK]

theorem fieldNNN_toNat (w : Word) : (fieldNNN w).toNat = w.toNat % 4096 := by
  simp [fieldNNN]

theorem packNNN_toNat (op : Nat) (nnn : BitVec 12) (h : op < 16) : (packNNN op nnn).toNat = op * 4096 + nnn.toNat := by
  have := nnn.isLt
  simp [packNNN]
  omega

theorem packXKK_toNat (op : Nat) (x : Reg) (kk : Nat) (h : op < 16) (hk : kk < 256) :
    (packXKK op x kk).toNat = op * 4096 + x.val * 256 + kk := by
  simp [packXKK]
  omega

theorem packXKK_toNat_byte (op : Nat) (x : Reg) (kk : Byte) (h : op < 16) :
    (packXKK op x kk.toNat).toNat = op * 4096 + x.val * 256 + kk.toNat := packXKK_toNat op x _ h kk.isLt

theorem packXYN_toNat (op : Nat) (x y : Reg) (n : Nat) (h : op < 16) (hn : n < 16) :
    (packXYN op x y n).toNat = op * 4096 + x.val * 256 + y.val * 16 + n := by
  simp [packXYN]
  omega

theorem fieldOp_eq_iff (w : Word) (k : BitVec 4) : fieldOp w = k ↔ w.toNat / 4096 = k.toNat := by
  rw [← fieldOp_toNat, BitVec.toNat_eq]

theorem fieldLow_eq_iff (w : Word) (k : BitVec 4) : fieldLow w = k ↔ w.toNat % 16 = k.toNat := by
  rw [← fieldLow_toNat, BitVec.toNat_eq]

theorem fieldKK_eq_iff (w : Word) (k : BitVec 8) : fieldKK w = k ↔ w.toNat % 256 = k.toNat := by
  rw [← fieldKK_toNat, BitVec.toNat_eq]

/-! ## The fields of a packed word -/

@[simp] theorem fieldOp_packNNN (op : Nat) (nnn : BitVec 12) (h : op < 16) :
    fieldOp (packNNN op nnn) = BitVec.ofNat 4 op := by
  rw [fieldOp_eq_iff, packNNN_toNat op nnn h]
  simp
  omega

@[simp] theorem fieldNNN_packNNN (op : Nat) (nnn : BitVec 12) (h : op < 16) : fieldNNN (packNNN op nnn) = nnn := by
  apply BitVec.eq_of_toNat_eq
  rw [fieldNNN_toNat, packNNN_toNat op nnn h]
  omega

@[simp] theorem fieldOp_packXKK (op : Nat) (x : Reg) (kk : Nat) (h : op < 16) (hk : kk < 256) :
    fieldOp (packXKK op x kk) = BitVec.ofNat 4 op := by
  rw [fieldOp_eq_iff, packXKK_toNat op x kk h hk]
  simp
  omega

@[simp] theorem fieldX_packXKK (op : Nat) (x : Reg) (kk : Nat) (h : op < 16) (hk : kk < 256) :
    fieldX (packXKK op x kk) = x := by
  apply Fin.ext
  rw [fieldX_val, packXKK_toNat op x kk h hk]
  omega

@[simp] theorem fieldKK_packXKK (op : Nat) (x : Reg) (kk : Nat) (h : op < 16) (hk : kk < 256) :
    fieldKK (packXKK op x kk) = BitVec.ofNat 8 kk := by
  rw [fieldKK_eq_iff, packXKK_toNat op x kk h hk]
  simp
  omega

@[simp] theorem fieldOp_packXKK_byte (op : Nat) (x : Reg) (kk : Byte) (h : op < 16) :
    fieldOp (packXKK op x kk.toNat) = BitVec.ofNat 4 op := fieldOp_packXKK op x _ h kk.isLt

@[simp] theorem fieldX_packXKK_byte (op : Nat) (x : Reg) (kk : Byte) (h : op < 16) :
    fieldX (packXKK op x kk.toNat) = x := fieldX_packXKK op x _ h kk.isLt

@[simp] theorem fieldKK_packXKK_byte (op : Nat) (x : Reg) (kk : Byte) (h : op < 16) :
    fieldKK (packXKK op x kk.toNat) = kk := by
  rw [fieldKK_packXKK op x _ h kk.isLt, BitVec.ofNat_toNat, BitVec.setWidth_eq]

@[simp] theorem fieldOp_packXYN (op : Nat) (x y : Reg) (n : Nat) (h : op < 16) (hn : n < 16) :
    fieldOp (packXYN op x y n) = BitVec.ofNat 4 op := by
  rw [fieldOp_eq_iff, packXYN_toNat op x y n h hn]
  simp
  omega

@[simp] theorem fieldX_packXYN (op : Nat) (x y : Reg) (n : Nat) (h : op < 16) (hn : n < 16) :
    fieldX (packXYN op x y n) = x := by
  apply Fin.ext
  rw [fieldX_val, packXYN_toNat op x y n h hn]
  omega

@[simp] theorem fieldY_packXYN (op : Nat) (x y : Reg) (n : Nat) (h : op < 16) (hn : n < 16) :
    fieldY (packXYN op x y n) = y := by
  apply Fin.ext
  rw [fieldY_val, packXYN_toNat op x y n h hn]
  omega

@[simp] theorem fieldLow_packXYN (op : Nat) (x y : Reg) (n : Nat) (h : op < 16) (hn : n < 16) :
    fieldLow (packXYN op x y n) = BitVec.ofNat 4 n := by
  rw [fieldLow_eq_iff, packXYN_toNat op x y n h hn]
  simp
  omega

/-! ## Chains of decode rules -/

/-- A rule of the decoder that matches gives its instruction; one that does not passes the word on. -/
theorem decode_rule_iff {α : Type} (c : Prop) [Decidable c] (a b r : α) :
    (if c then a else b) = r ↔ (c ∧ a = r) ∨ (¬ c ∧ b = r) := by
  by_cases h : c <;> simp [h]

/-! ## Bytes and words -/

theorem wordOfBytes_toNat (hi lo : Byte) : (wordOfBytes hi lo).toNat = hi.toNat * 256 + lo.toNat := by
  have := hi.isLt
  have := lo.isLt
  simp [wordOfBytes]
  omega

/-- A word is the word of its two bytes. -/
@[simp] theorem wordOfBytes_bytes (w : Word) : wordOfBytes (highByte w) (lowByte w) = w := by
  apply BitVec.eq_of_toNat_eq
  have := w.isLt
  rw [wordOfBytes_toNat]
  simp [highByte, lowByte, Nat.shiftRight_eq_div_pow]
  omega

end Sys2Proof
end

