-- ==== Sys2Proof/Laws/Display.lean ====
section
/-! SUPPORT. The pixel primitive and the toggling of a list of pixels. -/

namespace Sys2Proof.Machine

/-- Two coordinates are the same cell of the buffer. -/
def sameCell (p q : Nat × Nat) : Bool := wrapCol p.1 = wrapCol q.1 && wrapRow p.2 = wrapRow q.2

/-- `Toggle` inverts its own cell and no other (43_display.md R140). -/
theorem Display.pixel_flip (d : Display) (px py qx qy : Nat) :
    (d.flip px py).pixel qx qy = if sameCell (px, py) (qx, qy) then !d.pixel qx qy else d.pixel qx qy := by
  unfold Display.flip Display.pixel sameCell
  by_cases hr : wrapRow py = wrapRow qy
  · by_cases hc : wrapCol px = wrapCol qx
    · simp [hr, hc]
    · have : (wrapCol px).val ≠ (wrapCol qx).val := fun e => hc (Fin.ext e)
      simp [hr, hc, this]
  · have : (wrapRow py).val ≠ (wrapRow qy).val := fun e => hr (Fin.ext e)
    simp [hr, this]

/-- A display is its pixels. -/
theorem Display.ext_pixel (d e : Display) (h : ∀ px py, d.pixel px py = e.pixel px py) : d = e := by
  apply Vector.ext
  intro r hr
  apply Vector.ext
  intro c hc
  have := h c r
  simpa [Display.pixel, wrapCol, wrapRow, Nat.mod_eq_of_lt hr, Nat.mod_eq_of_lt hc] using this

theorem Display.toggleAll_cons (d : Display) (p : Nat × Nat) (ps : List (Nat × Nat)) :
    d.toggleAll (p :: ps) =
      (((d.flip p.1 p.2).toggleAll ps).1, d.pixel p.1 p.2 || ((d.flip p.1 p.2).toggleAll ps).2) := rfl

/-- After toggling a list of pixels a cell is inverted once for each time the list names it. -/
theorem Display.pixel_toggleAll (d : Display) (ps : List (Nat × Nat)) (qx qy : Nat) :
    (d.toggleAll ps).1.pixel qx qy = (d.pixel qx qy ^^ (ps.countP (fun p => sameCell p (qx, qy)) % 2 == 1)) := by
  induction ps generalizing d with
  | nil => simp [Display.toggleAll]
  | cons p ps ih =>
    rw [Display.toggleAll_cons]
    show ((d.flip p.1 p.2).toggleAll ps).1.pixel qx qy = _
    rw [ih, Display.pixel_flip, List.countP_cons]
    by_cases h : sameCell p (qx, qy) = true
    · have hpar : ((ps.countP (fun p => sameCell p (qx, qy)) + 1) % 2 == 1) =
          !(ps.countP (fun p => sameCell p (qx, qy)) % 2 == 1) := by
        rcases Nat.mod_two_eq_zero_or_one (ps.countP (fun p => sameCell p (qx, qy))) with h | h <;>
          simp [Nat.add_mod, h]
      simp only [h, if_true, hpar]
      cases d.pixel qx qy <;> simp
    · simp [h]

/-- The cells of sprite coordinates: which rows and columns of the list `rows` are set (R142). -/
theorem mem_spritePixels (x0 y0 : Nat) (rows : List Byte) (p : Nat × Nat) :
    p ∈ spritePixels x0 y0 rows ↔
      ∃ r c, ∃ h : r < rows.length, c < 8 ∧ spriteBit rows[r] c = true ∧ p = (x0 + c, y0 + r) := by
  induction rows generalizing y0 with
  | nil => simp [spritePixels]
  | cons row rows ih =>
    simp only [spritePixels, List.mem_append, List.mem_map, setColumns, List.mem_filter, List.mem_range, ih]
    constructor
    · rintro (⟨c, ⟨hc, hb⟩, rfl⟩ | ⟨r, c, h, hc, hb, rfl⟩)
      · exact ⟨0, c, by simp, hc, by simpa using hb, rfl⟩
      · exact ⟨r + 1, c, by simpa using h, hc, by simpa using hb, by simp; omega⟩
    · rintro ⟨r, c, h, hc, hb, rfl⟩
      cases r with
      | zero => exact .inl ⟨c, ⟨hc, by simpa using hb⟩, rfl⟩
      | succ r => exact .inr ⟨r, c, by simpa using h, hc, by simpa using hb, by simp; omega⟩

end Sys2Proof.Machine
end

