-- ==== Sys2Proof/Laws/Memory.lean ====
section
/-! SUPPORT. The laws of byte memory: a read after a write, and the canonical form that every write keeps. -/

namespace Sys2Proof.Machine

/-! ## Reading -/

theorem Memory.read_cons (c : Host.Cell) (m : Memory) (a : Nat) :
    Memory.read (c :: m) a = if c.1 = a then c.2 else Memory.read m a := rfl

theorem Memory.read_nil (a : Nat) : Memory.read [] a = Memory.unlisted := rfl

theorem Memory.read_of_not_mem (m : Memory) (a : Nat) (h : ∀ c ∈ m, c.1 ≠ a) : m.read a = Memory.unlisted := by
  induction m with
  | nil => rfl
  | cons c m ih =>
    rw [Memory.read_cons, if_neg (h c (by simp))]
    exact ih (fun d hd => h d (by simp [hd]))

theorem Memory.erase_not_mem (m : Memory) (a : Nat) : ∀ c ∈ m.erase a, c.1 ≠ a := by
  intro c hc
  simp [Memory.erase] at hc
  exact hc.2

theorem Memory.read_erase_same (m : Memory) (a : Nat) : (m.erase a).read a = Memory.unlisted :=
  Memory.read_of_not_mem _ _ (m.erase_not_mem a)

theorem Memory.read_erase_other (m : Memory) (a b : Nat) (h : b ≠ a) : (m.erase a).read b = m.read b := by
  induction m with
  | nil => rfl
  | cons c m ih =>
    by_cases hc : c.1 = a
    · have : Memory.erase (c :: m) a = Memory.erase m a := by simp [Memory.erase, hc]
      rw [this, ih, Memory.read_cons, if_neg]
      omega
    · have : Memory.erase (c :: m) a = c :: Memory.erase m a := by simp [Memory.erase, hc]
      rw [this, Memory.read_cons, Memory.read_cons, ih]

theorem Memory.insert_cons (c : Host.Cell) (m : Memory) (a : Nat) (v : Byte) :
    Memory.insert (c :: m) a v = if a < c.1 then (a, v) :: c :: m else c :: Memory.insert m a v := rfl

theorem Memory.read_insert_other (m : Memory) (a b : Nat) (v : Byte) (h : b ≠ a) : (m.insert a v).read b = m.read b := by
  induction m with
  | nil => simp [Memory.insert, Memory.read, Ne.symm h]
  | cons c m ih =>
    rw [Memory.insert_cons]
    split
    · rw [Memory.read_cons, if_neg (Ne.symm h)]
    · rw [Memory.read_cons, ih, Memory.read_cons]

theorem Memory.read_insert_same (m : Memory) (a : Nat) (v : Byte) (h : ∀ c ∈ m, c.1 ≠ a) : (m.insert a v).read a = v := by
  induction m with
  | nil => simp [Memory.insert, Memory.read]
  | cons c m ih =>
    rw [Memory.insert_cons]
    split
    · simp [Memory.read_cons]
    · rw [Memory.read_cons, if_neg (h c (by simp))]
      exact ih (fun d hd => h d (by simp [hd]))

/-- A read after a write to the same address gives the byte written. -/
@[simp] theorem Memory.read_write_same (m : Memory) (a : Nat) (v : Byte) : (m.write a v).read a = v := by
  unfold Memory.write
  split
  · next h => rw [Memory.read_erase_same, h]
  · exact Memory.read_insert_same _ _ _ (m.erase_not_mem a)

/-- A write leaves every other address alone. -/
theorem Memory.read_write_other (m : Memory) (a b : Nat) (v : Byte) (h : b ≠ a) : (m.write a v).read b = m.read b := by
  unfold Memory.write
  split
  · exact m.read_erase_other a b h
  · rw [Memory.read_insert_other _ _ _ _ h, Memory.read_erase_other _ _ _ h]

theorem Memory.read_write (m : Memory) (a b : Nat) (v : Byte) :
    (m.write a v).read b = if b = a then v else m.read b := by
  split
  · next h => rw [h, Memory.read_write_same]
  · next h => exact m.read_write_other a b v h

/-! ## The canonical form -/

/-- The canonical form says: addresses rise strictly, all lie below 4096, and no byte is the unlisted one. -/
theorem Memory.wf_iff (m : Memory) :
    m.wf = true ↔ m.Pairwise (fun c d => c.1 < d.1) ∧ ∀ c ∈ m, c.1 < memSize ∧ c.2 ≠ Memory.unlisted := by
  induction m with
  | nil => simp [Memory.wf]
  | cons c m ih =>
    cases m with
    | nil => simp [Memory.wf]
    | cons d m =>
      have hstep : Memory.wf (c :: d :: m) = (decide (c.1 < d.1) && c.2 != Memory.unlisted && Memory.wf (d :: m)) := rfl
      rw [hstep, Bool.and_eq_true, Bool.and_eq_true, ih, List.pairwise_cons (a := c)]
      simp only [decide_eq_true_eq, bne_iff_ne, List.pairwise_cons, List.mem_cons]
      constructor
      · rintro ⟨⟨h1, h2⟩, ⟨h3, h4⟩, h5⟩
        have hd := h5 d (Or.inl rfl)
        refine ⟨⟨?_, h3, h4⟩, ?_⟩
        · rintro e (rfl | he)
          · exact h1
          · exact h1.trans (h3 e he)
        · rintro e (rfl | he)
          · exact ⟨h1.trans hd.1, h2⟩
          · exact h5 e he
      · rintro ⟨⟨h1, h2⟩, h3⟩
        exact ⟨⟨h1 d (Or.inl rfl), (h3 c (Or.inl rfl)).2⟩, h2, fun e he => h3 e (Or.inr he)⟩

theorem Memory.wf_erase (m : Memory) (a : Nat) (h : m.wf = true) : (m.erase a).wf = true := by
  rw [Memory.wf_iff] at h ⊢
  exact ⟨h.1.sublist (List.filter_sublist), fun c hc => h.2 c (List.mem_filter.mp hc).1⟩

theorem Memory.mem_insert (m : Memory) (a : Nat) (v : Byte) (c : Host.Cell) :
    c ∈ m.insert a v ↔ c = (a, v) ∨ c ∈ m := by
  induction m with
  | nil => simp [Memory.insert]
  | cons d m ih =>
    rw [Memory.insert_cons]
    split
    · simp
    · simp only [List.mem_cons, ih]
      tauto

theorem Memory.wf_insert (m : Memory) (a : Nat) (v : Byte) (h : m.wf = true) (ha : a < memSize)
    (hv : v ≠ Memory.unlisted) (hn : ∀ c ∈ m, c.1 ≠ a) : (m.insert a v).wf = true := by
  rw [Memory.wf_iff] at h ⊢
  refine ⟨?_, ?_⟩
  · have hp := h.1
    clear h
    induction m with
    | nil => simp [Memory.insert]
    | cons d m ih =>
      rw [List.pairwise_cons] at hp
      rw [Memory.insert_cons]
      split
      · next hlt =>
        rw [List.pairwise_cons, List.pairwise_cons]
        refine ⟨?_, hp.1, hp.2⟩
        intro e he
        rcases List.mem_cons.mp he with rfl | he
        · exact hlt
        · exact hlt.trans (hp.1 e he)
      · next hge =>
        rw [List.pairwise_cons]
        refine ⟨?_, ih (fun c hc => hn c (by simp [hc])) hp.2⟩
        intro e he
        rcases (Memory.mem_insert m a v e).mp he with rfl | he
        · have := hn d (by simp)
          show d.1 < a
          omega
        · exact hp.1 e he
  · intro c hc
    rcases (Memory.mem_insert m a v c).mp hc with rfl | hc
    · exact ⟨ha, hv⟩
    · exact h.2 c hc

/-- A write below 4096 keeps the canonical form. -/
theorem Memory.wf_write (m : Memory) (a : Nat) (v : Byte) (h : m.wf = true) (ha : a < memSize) :
    (m.write a v).wf = true := by
  unfold Memory.write
  split
  · exact m.wf_erase a h
  · next hv => exact Memory.wf_insert _ a v (m.wf_erase a h) ha hv (m.erase_not_mem a)

theorem byteAddr_lt (addr : Word) (j : Nat) : byteAddr addr j < memSize := Nat.mod_lt _ (by decide)

/-- Every store of an access keeps the canonical form. -/
theorem Memory.wf_writeFrom (m : Memory) (addr : Word) (j : Nat) (bs : List Byte) (h : m.wf = true) :
    (m.writeFrom addr j bs).wf = true := by
  induction bs generalizing m j with
  | nil => exact h
  | cons b bs ih => exact ih _ _ (m.wf_write _ b h (byteAddr_lt addr j))

/-! ## Runs of bytes -/

@[simp] theorem Memory.bytesAt_length (m : Memory) (addr : Word) (n : Nat) : (m.bytesAt addr n).length = n := by
  simp [Memory.bytesAt]

theorem Memory.bytesAt_getD (m : Memory) (addr : Word) (n j : Nat) (d : Byte) :
    (m.bytesAt addr n).getD j d = if j < n then m.read (byteAddr addr j) else d := by
  split <;> simp_all [Memory.bytesAt, List.getD_eq_getElem?_getD]

/-- An address that is none of the access's is left alone. -/
theorem Memory.read_writeFrom_other (m : Memory) (addr : Word) (j : Nat) (bs : List Byte) (a : Nat)
    (h : ∀ k, k < bs.length → a ≠ byteAddr addr (j + k)) : (m.writeFrom addr j bs).read a = m.read a := by
  induction bs generalizing m j with
  | nil => rfl
  | cons b bs ih =>
    show ((m.write (byteAddr addr j) b).writeFrom addr (j + 1) bs).read a = _
    rw [ih, Memory.read_write_other]
    · simpa using h 0 (by simp)
    · intro k hk
      have := h (k + 1) (by simp; omega)
      rwa [show j + (k + 1) = j + 1 + k by omega] at this

/-- Bytes of one access lie at different addresses while the access is no longer than memory. -/
theorem byteAddr_ne (addr : Word) (j k : Nat) (h : j < k) (hk : k - j < memSize) : byteAddr addr j ≠ byteAddr addr k := by
  unfold byteAddr memSize at *
  omega

/-- The `k`-th byte stored by an access reads back at its address. -/
theorem Memory.read_writeFrom (m : Memory) (addr : Word) (j : Nat) (bs : List Byte) (hl : bs.length ≤ memSize)
    (k : Nat) (hk : k < bs.length) : (m.writeFrom addr j bs).read (byteAddr addr (j + k)) = bs[k] := by
  induction bs generalizing m j k with
  | nil => simp at hk
  | cons b bs ih =>
    have hl' : bs.length + 1 ≤ memSize := by simpa using hl
    show ((m.write (byteAddr addr j) b).writeFrom addr (j + 1) bs).read _ = _
    cases k with
    | zero =>
      rw [Memory.read_writeFrom_other]
      · simp
      · intro i hi
        exact byteAddr_ne addr _ _ (by omega) (by omega)
    | succ k =>
      rw [show j + (k + 1) = j + 1 + k by omega]
      simpa using ih (m.write (byteAddr addr j) b) (j + 1) (by omega) k (by simpa using hk)

end Sys2Proof.Machine
end

