-- ==== Sys2Proof/Laws/State.lean ====
section
/-! SUPPORT. One lemma per field per update of State, each true by rfl: no later proof unfolds a record update. -/

namespace Sys2Proof.Machine

variable (s : State)

/-! ## `State.setReg` -/

@[simp] theorem setReg_mem (x : Reg) (b : Byte) : (s.setReg x b).mem = s.mem := rfl
@[simp] theorem setReg_v (x : Reg) (b : Byte) : (s.setReg x b).v = s.v.set x b := rfl
@[simp] theorem setReg_i (x : Reg) (b : Byte) : (s.setReg x b).i = s.i := rfl
@[simp] theorem setReg_pc (x : Reg) (b : Byte) : (s.setReg x b).pc = s.pc := rfl
@[simp] theorem setReg_stack (x : Reg) (b : Byte) : (s.setReg x b).stack = s.stack := rfl
@[simp] theorem setReg_dt (x : Reg) (b : Byte) : (s.setReg x b).dt = s.dt := rfl
@[simp] theorem setReg_st (x : Reg) (b : Byte) : (s.setReg x b).st = s.st := rfl
@[simp] theorem setReg_disp (x : Reg) (b : Byte) : (s.setReg x b).disp = s.disp := rfl
@[simp] theorem setReg_mode (x : Reg) (b : Byte) : (s.setReg x b).mode = s.mode := rfl
@[simp] theorem setReg_tone (x : Reg) (b : Byte) : (s.setReg x b).tone = s.tone := rfl
@[simp] theorem setReg_batchPos (x : Reg) (b : Byte) : (s.setReg x b).batchPos = s.batchPos := rfl
@[simp] theorem setReg_paintRequest (x : Reg) (b : Byte) : (s.setReg x b).paintRequest = s.paintRequest := rfl
@[simp] theorem setReg_ports (x : Reg) (b : Byte) : (s.setReg x b).ports = s.ports := rfl
@[simp] theorem setReg_scripted (x : Reg) (b : Byte) : (s.setReg x b).scripted = s.scripted := rfl
@[simp] theorem setReg_time (x : Reg) (b : Byte) : (s.setReg x b).time = s.time := rfl
@[simp] theorem setReg_cfg (x : Reg) (b : Byte) : (s.setReg x b).cfg = s.cfg := rfl

/-! ## `State.setRegs` -/

@[simp] theorem setRegs_mem (v : Vector Byte 16) : (s.setRegs v).mem = s.mem := rfl
@[simp] theorem setRegs_v (v : Vector Byte 16) : (s.setRegs v).v = v := rfl
@[simp] theorem setRegs_i (v : Vector Byte 16) : (s.setRegs v).i = s.i := rfl
@[simp] theorem setRegs_pc (v : Vector Byte 16) : (s.setRegs v).pc = s.pc := rfl
@[simp] theorem setRegs_stack (v : Vector Byte 16) : (s.setRegs v).stack = s.stack := rfl
@[simp] theorem setRegs_dt (v : Vector Byte 16) : (s.setRegs v).dt = s.dt := rfl
@[simp] theorem setRegs_st (v : Vector Byte 16) : (s.setRegs v).st = s.st := rfl
@[simp] theorem setRegs_disp (v : Vector Byte 16) : (s.setRegs v).disp = s.disp := rfl
@[simp] theorem setRegs_mode (v : Vector Byte 16) : (s.setRegs v).mode = s.mode := rfl
@[simp] theorem setRegs_tone (v : Vector Byte 16) : (s.setRegs v).tone = s.tone := rfl
@[simp] theorem setRegs_batchPos (v : Vector Byte 16) : (s.setRegs v).batchPos = s.batchPos := rfl
@[simp] theorem setRegs_paintRequest (v : Vector Byte 16) : (s.setRegs v).paintRequest = s.paintRequest := rfl
@[simp] theorem setRegs_ports (v : Vector Byte 16) : (s.setRegs v).ports = s.ports := rfl
@[simp] theorem setRegs_scripted (v : Vector Byte 16) : (s.setRegs v).scripted = s.scripted := rfl
@[simp] theorem setRegs_time (v : Vector Byte 16) : (s.setRegs v).time = s.time := rfl
@[simp] theorem setRegs_cfg (v : Vector Byte 16) : (s.setRegs v).cfg = s.cfg := rfl

/-! ## `State.setIndex` -/

@[simp] theorem setIndex_mem (w : Word) : (s.setIndex w).mem = s.mem := rfl
@[simp] theorem setIndex_v (w : Word) : (s.setIndex w).v = s.v := rfl
@[simp] theorem setIndex_i (w : Word) : (s.setIndex w).i = w := rfl
@[simp] theorem setIndex_pc (w : Word) : (s.setIndex w).pc = s.pc := rfl
@[simp] theorem setIndex_stack (w : Word) : (s.setIndex w).stack = s.stack := rfl
@[simp] theorem setIndex_dt (w : Word) : (s.setIndex w).dt = s.dt := rfl
@[simp] theorem setIndex_st (w : Word) : (s.setIndex w).st = s.st := rfl
@[simp] theorem setIndex_disp (w : Word) : (s.setIndex w).disp = s.disp := rfl
@[simp] theorem setIndex_mode (w : Word) : (s.setIndex w).mode = s.mode := rfl
@[simp] theorem setIndex_tone (w : Word) : (s.setIndex w).tone = s.tone := rfl
@[simp] theorem setIndex_batchPos (w : Word) : (s.setIndex w).batchPos = s.batchPos := rfl
@[simp] theorem setIndex_paintRequest (w : Word) : (s.setIndex w).paintRequest = s.paintRequest := rfl
@[simp] theorem setIndex_ports (w : Word) : (s.setIndex w).ports = s.ports := rfl
@[simp] theorem setIndex_scripted (w : Word) : (s.setIndex w).scripted = s.scripted := rfl
@[simp] theorem setIndex_time (w : Word) : (s.setIndex w).time = s.time := rfl
@[simp] theorem setIndex_cfg (w : Word) : (s.setIndex w).cfg = s.cfg := rfl

/-! ## `State.setPc` -/

@[simp] theorem setPc_mem (w : Word) : (s.setPc w).mem = s.mem := rfl
@[simp] theorem setPc_v (w : Word) : (s.setPc w).v = s.v := rfl
@[simp] theorem setPc_i (w : Word) : (s.setPc w).i = s.i := rfl
@[simp] theorem setPc_pc (w : Word) : (s.setPc w).pc = w := rfl
@[simp] theorem setPc_stack (w : Word) : (s.setPc w).stack = s.stack := rfl
@[simp] theorem setPc_dt (w : Word) : (s.setPc w).dt = s.dt := rfl
@[simp] theorem setPc_st (w : Word) : (s.setPc w).st = s.st := rfl
@[simp] theorem setPc_disp (w : Word) : (s.setPc w).disp = s.disp := rfl
@[simp] theorem setPc_mode (w : Word) : (s.setPc w).mode = s.mode := rfl
@[simp] theorem setPc_tone (w : Word) : (s.setPc w).tone = s.tone := rfl
@[simp] theorem setPc_batchPos (w : Word) : (s.setPc w).batchPos = s.batchPos := rfl
@[simp] theorem setPc_paintRequest (w : Word) : (s.setPc w).paintRequest = s.paintRequest := rfl
@[simp] theorem setPc_ports (w : Word) : (s.setPc w).ports = s.ports := rfl
@[simp] theorem setPc_scripted (w : Word) : (s.setPc w).scripted = s.scripted := rfl
@[simp] theorem setPc_time (w : Word) : (s.setPc w).time = s.time := rfl
@[simp] theorem setPc_cfg (w : Word) : (s.setPc w).cfg = s.cfg := rfl

/-! ## `State.setStack` -/

@[simp] theorem setStack_mem (l : List Word) : (s.setStack l).mem = s.mem := rfl
@[simp] theorem setStack_v (l : List Word) : (s.setStack l).v = s.v := rfl
@[simp] theorem setStack_i (l : List Word) : (s.setStack l).i = s.i := rfl
@[simp] theorem setStack_pc (l : List Word) : (s.setStack l).pc = s.pc := rfl
@[simp] theorem setStack_stack (l : List Word) : (s.setStack l).stack = l := rfl
@[simp] theorem setStack_dt (l : List Word) : (s.setStack l).dt = s.dt := rfl
@[simp] theorem setStack_st (l : List Word) : (s.setStack l).st = s.st := rfl
@[simp] theorem setStack_disp (l : List Word) : (s.setStack l).disp = s.disp := rfl
@[simp] theorem setStack_mode (l : List Word) : (s.setStack l).mode = s.mode := rfl
@[simp] theorem setStack_tone (l : List Word) : (s.setStack l).tone = s.tone := rfl
@[simp] theorem setStack_batchPos (l : List Word) : (s.setStack l).batchPos = s.batchPos := rfl
@[simp] theorem setStack_paintRequest (l : List Word) : (s.setStack l).paintRequest = s.paintRequest := rfl
@[simp] theorem setStack_ports (l : List Word) : (s.setStack l).ports = s.ports := rfl
@[simp] theorem setStack_scripted (l : List Word) : (s.setStack l).scripted = s.scripted := rfl
@[simp] theorem setStack_time (l : List Word) : (s.setStack l).time = s.time := rfl
@[simp] theorem setStack_cfg (l : List Word) : (s.setStack l).cfg = s.cfg := rfl

/-! ## `State.setMem` -/

@[simp] theorem setMem_mem (m : Memory) : (s.setMem m).mem = m := rfl
@[simp] theorem setMem_v (m : Memory) : (s.setMem m).v = s.v := rfl
@[simp] theorem setMem_i (m : Memory) : (s.setMem m).i = s.i := rfl
@[simp] theorem setMem_pc (m : Memory) : (s.setMem m).pc = s.pc := rfl
@[simp] theorem setMem_stack (m : Memory) : (s.setMem m).stack = s.stack := rfl
@[simp] theorem setMem_dt (m : Memory) : (s.setMem m).dt = s.dt := rfl
@[simp] theorem setMem_st (m : Memory) : (s.setMem m).st = s.st := rfl
@[simp] theorem setMem_disp (m : Memory) : (s.setMem m).disp = s.disp := rfl
@[simp] theorem setMem_mode (m : Memory) : (s.setMem m).mode = s.mode := rfl
@[simp] theorem setMem_tone (m : Memory) : (s.setMem m).tone = s.tone := rfl
@[simp] theorem setMem_batchPos (m : Memory) : (s.setMem m).batchPos = s.batchPos := rfl
@[simp] theorem setMem_paintRequest (m : Memory) : (s.setMem m).paintRequest = s.paintRequest := rfl
@[simp] theorem setMem_ports (m : Memory) : (s.setMem m).ports = s.ports := rfl
@[simp] theorem setMem_scripted (m : Memory) : (s.setMem m).scripted = s.scripted := rfl
@[simp] theorem setMem_time (m : Memory) : (s.setMem m).time = s.time := rfl
@[simp] theorem setMem_cfg (m : Memory) : (s.setMem m).cfg = s.cfg := rfl

/-! ## `State.setDisp` -/

@[simp] theorem setDisp_mem (d : Display) : (s.setDisp d).mem = s.mem := rfl
@[simp] theorem setDisp_v (d : Display) : (s.setDisp d).v = s.v := rfl
@[simp] theorem setDisp_i (d : Display) : (s.setDisp d).i = s.i := rfl
@[simp] theorem setDisp_pc (d : Display) : (s.setDisp d).pc = s.pc := rfl
@[simp] theorem setDisp_stack (d : Display) : (s.setDisp d).stack = s.stack := rfl
@[simp] theorem setDisp_dt (d : Display) : (s.setDisp d).dt = s.dt := rfl
@[simp] theorem setDisp_st (d : Display) : (s.setDisp d).st = s.st := rfl
@[simp] theorem setDisp_disp (d : Display) : (s.setDisp d).disp = d := rfl
@[simp] theorem setDisp_mode (d : Display) : (s.setDisp d).mode = s.mode := rfl
@[simp] theorem setDisp_tone (d : Display) : (s.setDisp d).tone = s.tone := rfl
@[simp] theorem setDisp_batchPos (d : Display) : (s.setDisp d).batchPos = s.batchPos := rfl
@[simp] theorem setDisp_paintRequest (d : Display) : (s.setDisp d).paintRequest = s.paintRequest := rfl
@[simp] theorem setDisp_ports (d : Display) : (s.setDisp d).ports = s.ports := rfl
@[simp] theorem setDisp_scripted (d : Display) : (s.setDisp d).scripted = s.scripted := rfl
@[simp] theorem setDisp_time (d : Display) : (s.setDisp d).time = s.time := rfl
@[simp] theorem setDisp_cfg (d : Display) : (s.setDisp d).cfg = s.cfg := rfl

/-! ## `State.setDelay` -/

@[simp] theorem setDelay_mem (b : Byte) : (s.setDelay b).mem = s.mem := rfl
@[simp] theorem setDelay_v (b : Byte) : (s.setDelay b).v = s.v := rfl
@[simp] theorem setDelay_i (b : Byte) : (s.setDelay b).i = s.i := rfl
@[simp] theorem setDelay_pc (b : Byte) : (s.setDelay b).pc = s.pc := rfl
@[simp] theorem setDelay_stack (b : Byte) : (s.setDelay b).stack = s.stack := rfl
@[simp] theorem setDelay_dt (b : Byte) : (s.setDelay b).dt = b := rfl
@[simp] theorem setDelay_st (b : Byte) : (s.setDelay b).st = s.st := rfl
@[simp] theorem setDelay_disp (b : Byte) : (s.setDelay b).disp = s.disp := rfl
@[simp] theorem setDelay_mode (b : Byte) : (s.setDelay b).mode = s.mode := rfl
@[simp] theorem setDelay_tone (b : Byte) : (s.setDelay b).tone = s.tone := rfl
@[simp] theorem setDelay_batchPos (b : Byte) : (s.setDelay b).batchPos = s.batchPos := rfl
@[simp] theorem setDelay_paintRequest (b : Byte) : (s.setDelay b).paintRequest = s.paintRequest := rfl
@[simp] theorem setDelay_ports (b : Byte) : (s.setDelay b).ports = s.ports := rfl
@[simp] theorem setDelay_scripted (b : Byte) : (s.setDelay b).scripted = s.scripted := rfl
@[simp] theorem setDelay_time (b : Byte) : (s.setDelay b).time = s.time := rfl
@[simp] theorem setDelay_cfg (b : Byte) : (s.setDelay b).cfg = s.cfg := rfl

/-! ## `State.setSound` -/

@[simp] theorem setSound_mem (b : Byte) : (s.setSound b).mem = s.mem := rfl
@[simp] theorem setSound_v (b : Byte) : (s.setSound b).v = s.v := rfl
@[simp] theorem setSound_i (b : Byte) : (s.setSound b).i = s.i := rfl
@[simp] theorem setSound_pc (b : Byte) : (s.setSound b).pc = s.pc := rfl
@[simp] theorem setSound_stack (b : Byte) : (s.setSound b).stack = s.stack := rfl
@[simp] theorem setSound_dt (b : Byte) : (s.setSound b).dt = s.dt := rfl
@[simp] theorem setSound_st (b : Byte) : (s.setSound b).st = b := rfl
@[simp] theorem setSound_disp (b : Byte) : (s.setSound b).disp = s.disp := rfl
@[simp] theorem setSound_mode (b : Byte) : (s.setSound b).mode = s.mode := rfl
@[simp] theorem setSound_tone (b : Byte) : (s.setSound b).tone = s.tone := rfl
@[simp] theorem setSound_batchPos (b : Byte) : (s.setSound b).batchPos = s.batchPos := rfl
@[simp] theorem setSound_paintRequest (b : Byte) : (s.setSound b).paintRequest = s.paintRequest := rfl
@[simp] theorem setSound_ports (b : Byte) : (s.setSound b).ports = s.ports := rfl
@[simp] theorem setSound_scripted (b : Byte) : (s.setSound b).scripted = s.scripted := rfl
@[simp] theorem setSound_time (b : Byte) : (s.setSound b).time = s.time := rfl
@[simp] theorem setSound_cfg (b : Byte) : (s.setSound b).cfg = s.cfg := rfl

/-! ## `State.setTone` -/

@[simp] theorem setTone_mem (b : Bool) : (s.setTone b).mem = s.mem := rfl
@[simp] theorem setTone_v (b : Bool) : (s.setTone b).v = s.v := rfl
@[simp] theorem setTone_i (b : Bool) : (s.setTone b).i = s.i := rfl
@[simp] theorem setTone_pc (b : Bool) : (s.setTone b).pc = s.pc := rfl
@[simp] theorem setTone_stack (b : Bool) : (s.setTone b).stack = s.stack := rfl
@[simp] theorem setTone_dt (b : Bool) : (s.setTone b).dt = s.dt := rfl
@[simp] theorem setTone_st (b : Bool) : (s.setTone b).st = s.st := rfl
@[simp] theorem setTone_disp (b : Bool) : (s.setTone b).disp = s.disp := rfl
@[simp] theorem setTone_mode (b : Bool) : (s.setTone b).mode = s.mode := rfl
@[simp] theorem setTone_tone (b : Bool) : (s.setTone b).tone = b := rfl
@[simp] theorem setTone_batchPos (b : Bool) : (s.setTone b).batchPos = s.batchPos := rfl
@[simp] theorem setTone_paintRequest (b : Bool) : (s.setTone b).paintRequest = s.paintRequest := rfl
@[simp] theorem setTone_ports (b : Bool) : (s.setTone b).ports = s.ports := rfl
@[simp] theorem setTone_scripted (b : Bool) : (s.setTone b).scripted = s.scripted := rfl
@[simp] theorem setTone_time (b : Bool) : (s.setTone b).time = s.time := rfl
@[simp] theorem setTone_cfg (b : Bool) : (s.setTone b).cfg = s.cfg := rfl

/-! ## `State.setMode` -/

@[simp] theorem setMode_mem (m : Mode) : (s.setMode m).mem = s.mem := rfl
@[simp] theorem setMode_v (m : Mode) : (s.setMode m).v = s.v := rfl
@[simp] theorem setMode_i (m : Mode) : (s.setMode m).i = s.i := rfl
@[simp] theorem setMode_pc (m : Mode) : (s.setMode m).pc = s.pc := rfl
@[simp] theorem setMode_stack (m : Mode) : (s.setMode m).stack = s.stack := rfl
@[simp] theorem setMode_dt (m : Mode) : (s.setMode m).dt = s.dt := rfl
@[simp] theorem setMode_st (m : Mode) : (s.setMode m).st = s.st := rfl
@[simp] theorem setMode_disp (m : Mode) : (s.setMode m).disp = s.disp := rfl
@[simp] theorem setMode_mode (m : Mode) : (s.setMode m).mode = m := rfl
@[simp] theorem setMode_tone (m : Mode) : (s.setMode m).tone = s.tone := rfl
@[simp] theorem setMode_batchPos (m : Mode) : (s.setMode m).batchPos = s.batchPos := rfl
@[simp] theorem setMode_paintRequest (m : Mode) : (s.setMode m).paintRequest = s.paintRequest := rfl
@[simp] theorem setMode_ports (m : Mode) : (s.setMode m).ports = s.ports := rfl
@[simp] theorem setMode_scripted (m : Mode) : (s.setMode m).scripted = s.scripted := rfl
@[simp] theorem setMode_time (m : Mode) : (s.setMode m).time = s.time := rfl
@[simp] theorem setMode_cfg (m : Mode) : (s.setMode m).cfg = s.cfg := rfl

/-! ## `State.setBatchPos` -/

@[simp] theorem setBatchPos_mem (n : Nat) : (s.setBatchPos n).mem = s.mem := rfl
@[simp] theorem setBatchPos_v (n : Nat) : (s.setBatchPos n).v = s.v := rfl
@[simp] theorem setBatchPos_i (n : Nat) : (s.setBatchPos n).i = s.i := rfl
@[simp] theorem setBatchPos_pc (n : Nat) : (s.setBatchPos n).pc = s.pc := rfl
@[simp] theorem setBatchPos_stack (n : Nat) : (s.setBatchPos n).stack = s.stack := rfl
@[simp] theorem setBatchPos_dt (n : Nat) : (s.setBatchPos n).dt = s.dt := rfl
@[simp] theorem setBatchPos_st (n : Nat) : (s.setBatchPos n).st = s.st := rfl
@[simp] theorem setBatchPos_disp (n : Nat) : (s.setBatchPos n).disp = s.disp := rfl
@[simp] theorem setBatchPos_mode (n : Nat) : (s.setBatchPos n).mode = s.mode := rfl
@[simp] theorem setBatchPos_tone (n : Nat) : (s.setBatchPos n).tone = s.tone := rfl
@[simp] theorem setBatchPos_batchPos (n : Nat) : (s.setBatchPos n).batchPos = n := rfl
@[simp] theorem setBatchPos_paintRequest (n : Nat) : (s.setBatchPos n).paintRequest = s.paintRequest := rfl
@[simp] theorem setBatchPos_ports (n : Nat) : (s.setBatchPos n).ports = s.ports := rfl
@[simp] theorem setBatchPos_scripted (n : Nat) : (s.setBatchPos n).scripted = s.scripted := rfl
@[simp] theorem setBatchPos_time (n : Nat) : (s.setBatchPos n).time = s.time := rfl
@[simp] theorem setBatchPos_cfg (n : Nat) : (s.setBatchPos n).cfg = s.cfg := rfl

/-! ## `State.setPaint` -/

@[simp] theorem setPaint_mem (b : Bool) : (s.setPaint b).mem = s.mem := rfl
@[simp] theorem setPaint_v (b : Bool) : (s.setPaint b).v = s.v := rfl
@[simp] theorem setPaint_i (b : Bool) : (s.setPaint b).i = s.i := rfl
@[simp] theorem setPaint_pc (b : Bool) : (s.setPaint b).pc = s.pc := rfl
@[simp] theorem setPaint_stack (b : Bool) : (s.setPaint b).stack = s.stack := rfl
@[simp] theorem setPaint_dt (b : Bool) : (s.setPaint b).dt = s.dt := rfl
@[simp] theorem setPaint_st (b : Bool) : (s.setPaint b).st = s.st := rfl
@[simp] theorem setPaint_disp (b : Bool) : (s.setPaint b).disp = s.disp := rfl
@[simp] theorem setPaint_mode (b : Bool) : (s.setPaint b).mode = s.mode := rfl
@[simp] theorem setPaint_tone (b : Bool) : (s.setPaint b).tone = s.tone := rfl
@[simp] theorem setPaint_batchPos (b : Bool) : (s.setPaint b).batchPos = s.batchPos := rfl
@[simp] theorem setPaint_paintRequest (b : Bool) : (s.setPaint b).paintRequest = b := rfl
@[simp] theorem setPaint_ports (b : Bool) : (s.setPaint b).ports = s.ports := rfl
@[simp] theorem setPaint_scripted (b : Bool) : (s.setPaint b).scripted = s.scripted := rfl
@[simp] theorem setPaint_time (b : Bool) : (s.setPaint b).time = s.time := rfl
@[simp] theorem setPaint_cfg (b : Bool) : (s.setPaint b).cfg = s.cfg := rfl

/-! ## `State.sampleInputs` -/

@[simp] theorem sampleInputs_mem : (s.sampleInputs).mem = s.mem := rfl
@[simp] theorem sampleInputs_v : (s.sampleInputs).v = s.v := rfl
@[simp] theorem sampleInputs_i : (s.sampleInputs).i = s.i := rfl
@[simp] theorem sampleInputs_pc : (s.sampleInputs).pc = s.pc := rfl
@[simp] theorem sampleInputs_stack : (s.sampleInputs).stack = s.stack := rfl
@[simp] theorem sampleInputs_dt : (s.sampleInputs).dt = s.dt := rfl
@[simp] theorem sampleInputs_st : (s.sampleInputs).st = s.st := rfl
@[simp] theorem sampleInputs_disp : (s.sampleInputs).disp = s.disp := rfl
@[simp] theorem sampleInputs_mode : (s.sampleInputs).mode = s.mode := rfl
@[simp] theorem sampleInputs_tone : (s.sampleInputs).tone = s.tone := rfl
@[simp] theorem sampleInputs_batchPos : (s.sampleInputs).batchPos = s.batchPos := rfl
@[simp] theorem sampleInputs_paintRequest : (s.sampleInputs).paintRequest = s.paintRequest := rfl
@[simp] theorem sampleInputs_scripted : (s.sampleInputs).scripted = s.scripted.tail := rfl
@[simp] theorem sampleInputs_time : (s.sampleInputs).time = s.time + 1 := rfl
@[simp] theorem sampleInputs_cfg : (s.sampleInputs).cfg = s.cfg := rfl

/-! ## `State.raise` -/

@[simp] theorem raise_mem (f : Fault) : (s.raise f).mem = s.mem := rfl
@[simp] theorem raise_v (f : Fault) : (s.raise f).v = s.v := rfl
@[simp] theorem raise_i (f : Fault) : (s.raise f).i = s.i := rfl
@[simp] theorem raise_pc (f : Fault) : (s.raise f).pc = s.pc := rfl
@[simp] theorem raise_stack (f : Fault) : (s.raise f).stack = s.stack := rfl
@[simp] theorem raise_dt (f : Fault) : (s.raise f).dt = s.dt := rfl
@[simp] theorem raise_st (f : Fault) : (s.raise f).st = s.st := rfl
@[simp] theorem raise_disp (f : Fault) : (s.raise f).disp = s.disp := rfl
@[simp] theorem raise_mode (f : Fault) : (s.raise f).mode = .faulted f := rfl
@[simp] theorem raise_tone (f : Fault) : (s.raise f).tone = s.tone := rfl
@[simp] theorem raise_batchPos (f : Fault) : (s.raise f).batchPos = s.batchPos := rfl
@[simp] theorem raise_paintRequest (f : Fault) : (s.raise f).paintRequest = s.paintRequest := rfl
@[simp] theorem raise_ports (f : Fault) : (s.raise f).ports = s.ports := rfl
@[simp] theorem raise_scripted (f : Fault) : (s.raise f).scripted = s.scripted := rfl
@[simp] theorem raise_time (f : Fault) : (s.raise f).time = s.time := rfl
@[simp] theorem raise_cfg (f : Fault) : (s.raise f).cfg = s.cfg := rfl

/-! ## `State.advancePc` -/

@[simp] theorem advancePc_mem : (s.advancePc).mem = s.mem := rfl
@[simp] theorem advancePc_v : (s.advancePc).v = s.v := rfl
@[simp] theorem advancePc_i : (s.advancePc).i = s.i := rfl
@[simp] theorem advancePc_pc : (s.advancePc).pc = s.pc + 2#16 := rfl
@[simp] theorem advancePc_stack : (s.advancePc).stack = s.stack := rfl
@[simp] theorem advancePc_dt : (s.advancePc).dt = s.dt := rfl
@[simp] theorem advancePc_st : (s.advancePc).st = s.st := rfl
@[simp] theorem advancePc_disp : (s.advancePc).disp = s.disp := rfl
@[simp] theorem advancePc_mode : (s.advancePc).mode = s.mode := rfl
@[simp] theorem advancePc_tone : (s.advancePc).tone = s.tone := rfl
@[simp] theorem advancePc_batchPos : (s.advancePc).batchPos = s.batchPos := rfl
@[simp] theorem advancePc_paintRequest : (s.advancePc).paintRequest = s.paintRequest := rfl
@[simp] theorem advancePc_ports : (s.advancePc).ports = s.ports := rfl
@[simp] theorem advancePc_scripted : (s.advancePc).scripted = s.scripted := rfl
@[simp] theorem advancePc_time : (s.advancePc).time = s.time := rfl
@[simp] theorem advancePc_cfg : (s.advancePc).cfg = s.cfg := rfl

/-! ## `State.skipIf` -/

@[simp] theorem skipIf_mem (c : Bool) : (s.skipIf c).mem = s.mem := rfl
@[simp] theorem skipIf_v (c : Bool) : (s.skipIf c).v = s.v := rfl
@[simp] theorem skipIf_i (c : Bool) : (s.skipIf c).i = s.i := rfl
@[simp] theorem skipIf_pc (c : Bool) : (s.skipIf c).pc = if c then s.pc + 2#16 else s.pc := rfl
@[simp] theorem skipIf_stack (c : Bool) : (s.skipIf c).stack = s.stack := rfl
@[simp] theorem skipIf_dt (c : Bool) : (s.skipIf c).dt = s.dt := rfl
@[simp] theorem skipIf_st (c : Bool) : (s.skipIf c).st = s.st := rfl
@[simp] theorem skipIf_disp (c : Bool) : (s.skipIf c).disp = s.disp := rfl
@[simp] theorem skipIf_mode (c : Bool) : (s.skipIf c).mode = s.mode := rfl
@[simp] theorem skipIf_tone (c : Bool) : (s.skipIf c).tone = s.tone := rfl
@[simp] theorem skipIf_batchPos (c : Bool) : (s.skipIf c).batchPos = s.batchPos := rfl
@[simp] theorem skipIf_paintRequest (c : Bool) : (s.skipIf c).paintRequest = s.paintRequest := rfl
@[simp] theorem skipIf_ports (c : Bool) : (s.skipIf c).ports = s.ports := rfl
@[simp] theorem skipIf_scripted (c : Bool) : (s.skipIf c).scripted = s.scripted := rfl
@[simp] theorem skipIf_time (c : Bool) : (s.skipIf c).time = s.time := rfl
@[simp] theorem skipIf_cfg (c : Bool) : (s.skipIf c).cfg = s.cfg := rfl

/-! ## `State.takeSlot` -/

@[simp] theorem takeSlot_mem : (s.takeSlot).mem = s.mem := rfl
@[simp] theorem takeSlot_v : (s.takeSlot).v = s.v := rfl
@[simp] theorem takeSlot_i : (s.takeSlot).i = s.i := rfl
@[simp] theorem takeSlot_pc : (s.takeSlot).pc = s.pc := rfl
@[simp] theorem takeSlot_stack : (s.takeSlot).stack = s.stack := rfl
@[simp] theorem takeSlot_dt : (s.takeSlot).dt = s.dt := rfl
@[simp] theorem takeSlot_st : (s.takeSlot).st = s.st := rfl
@[simp] theorem takeSlot_disp : (s.takeSlot).disp = s.disp := rfl
@[simp] theorem takeSlot_mode : (s.takeSlot).mode = s.mode := rfl
@[simp] theorem takeSlot_tone : (s.takeSlot).tone = s.tone := rfl
@[simp] theorem takeSlot_batchPos : (s.takeSlot).batchPos = s.batchPos + 1 := rfl
@[simp] theorem takeSlot_paintRequest : (s.takeSlot).paintRequest = false := rfl
@[simp] theorem takeSlot_ports : (s.takeSlot).ports = s.ports := rfl
@[simp] theorem takeSlot_scripted : (s.takeSlot).scripted = s.scripted := rfl
@[simp] theorem takeSlot_time : (s.takeSlot).time = s.time := rfl
@[simp] theorem takeSlot_cfg : (s.takeSlot).cfg = s.cfg := rfl

/-! ## `State.endBatch` -/

@[simp] theorem endBatch_mem : (s.endBatch).mem = s.mem := rfl
@[simp] theorem endBatch_v : (s.endBatch).v = s.v := rfl
@[simp] theorem endBatch_i : (s.endBatch).i = s.i := rfl
@[simp] theorem endBatch_pc : (s.endBatch).pc = s.pc := rfl
@[simp] theorem endBatch_stack : (s.endBatch).stack = s.stack := rfl
@[simp] theorem endBatch_dt : (s.endBatch).dt = s.dt := rfl
@[simp] theorem endBatch_st : (s.endBatch).st = s.st := rfl
@[simp] theorem endBatch_disp : (s.endBatch).disp = s.disp := rfl
@[simp] theorem endBatch_mode : (s.endBatch).mode = s.mode := rfl
@[simp] theorem endBatch_tone : (s.endBatch).tone = s.tone := rfl
@[simp] theorem endBatch_batchPos : (s.endBatch).batchPos = 0 := rfl
@[simp] theorem endBatch_paintRequest : (s.endBatch).paintRequest = false := rfl
@[simp] theorem endBatch_ports : (s.endBatch).ports = s.ports := rfl
@[simp] theorem endBatch_scripted : (s.endBatch).scripted = s.scripted := rfl
@[simp] theorem endBatch_time : (s.endBatch).time = s.time := rfl
@[simp] theorem endBatch_cfg : (s.endBatch).cfg = s.cfg := rfl

/-! ## Reading a register after an update -/

theorem reg_def (x : Reg) : s.reg x = s.v[x] := rfl

@[simp] theorem setReg_reg_same (x : Reg) (b : Byte) : (s.setReg x b).reg x = b := by
  simp [reg_def]

theorem setReg_reg_other (x j : Reg) (b : Byte) (h : j ≠ x) : (s.setReg x b).reg j = s.reg j := by
  have hv : x.val ≠ j.val := fun e => h (Fin.ext e.symm)
  simp [reg_def, hv]

theorem setReg_reg (x j : Reg) (b : Byte) : (s.setReg x b).reg j = if j = x then b else s.reg j := by
  split
  · next h => rw [h, setReg_reg_same]
  · next h => exact setReg_reg_other s x j b h

end Sys2Proof.Machine
end

