-- ==== Sys2Proof/Laws/Ops.lean ====
section
/-! SUPPORT. One lemma per shared operation, saying once everything it can do; proofs cite these instead of unfolding. -/

namespace Sys2Proof.Machine

/-! ## When an access raises no fault (20_memory.md R45) -/

theorem accessOk_iff (c : Config) (addr : Word) (n : Nat) :
    accessOk c addr n = true ↔ c.oobPolicy = .wrap ∨ n = 0 ∨ addr.toNat + n ≤ 4096 := by
  unfold accessOk
  cases c.oobPolicy
  · simp
  · simp

theorem accessOk_false (c : Config) (addr : Word) (n : Nat) :
    accessOk c addr n = false ↔ c.oobPolicy = .fault ∧ n ≠ 0 ∧ 4096 < addr.toNat + n := by
  rw [← Bool.not_eq_true, accessOk_iff]
  cases c.oobPolicy <;> simp

theorem byteAddr_of_ok (addr : Word) (n j : Nat) (h : addr.toNat + n ≤ 4096) (hj : j < n) :
    byteAddr addr j = addr.toNat + j := Nat.mod_eq_of_lt (by unfold memSize; omega)

/-! ## Stack -/

theorem stackFull_iff (s : State) : s.stackFull = true ↔ ∃ cap, s.cfg.stackCapacity = some cap ∧ cap ≤ s.stack.length := by
  unfold State.stackFull
  cases s.cfg.stackCapacity <;> simp

theorem pushThen_cases (s : State) (w : Word) (next : State → State) :
    (s.stackFull = true ∧ s.pushThen w next = s.raise .stackOverflow) ∨
    (s.stackFull = false ∧ s.pushThen w next = next (s.setStack (w :: s.stack))) := by
  unfold State.pushThen
  cases s.stackFull <;> simp

theorem popThen_cases (s : State) (next : Word → State → State) :
    (s.stack = [] ∧ s.popThen next = s.raise .stackUnderflow) ∨
    (∃ w rest, s.stack = w :: rest ∧ s.popThen next = next w (s.setStack rest)) := by
  unfold State.popThen
  cases h : s.stack with
  | nil => exact .inl ⟨rfl, rfl⟩
  | cons w rest => exact .inr ⟨w, rest, rfl, rfl⟩

/-! ## Memory access -/

theorem memReadThen_cases (s : State) (addr : Word) (n : Nat) (next : List Byte → State) :
    (accessOk s.cfg addr n = true ∧ s.memReadThen addr n next = next (s.mem.bytesAt addr n)) ∨
    (accessOk s.cfg addr n = false ∧ s.memReadThen addr n next = s.raise (.memoryOutOfRange addr n)) := by
  unfold State.memReadThen
  cases accessOk s.cfg addr n <;> simp

theorem memWrite_cases (s : State) (addr : Word) (bytes : List Byte) :
    (accessOk s.cfg addr bytes.length = true ∧ s.memWrite addr bytes = s.setMem (s.mem.writeFrom addr 0 bytes)) ∨
    (accessOk s.cfg addr bytes.length = false ∧
      s.memWrite addr bytes = s.raise (.memoryOutOfRange addr bytes.length)) := by
  unfold State.memWrite
  cases accessOk s.cfg addr bytes.length <;> simp

@[simp] theorem regsThrough_length (s : State) (x : Reg) : (s.regsThrough x).length = x.val + 1 := by
  have := x.isLt
  simp [State.regsThrough]

theorem regsThrough_getElem (s : State) (x : Reg) (j : Nat) (hj : j < (s.regsThrough x).length) :
    (s.regsThrough x)[j] = s.reg ⟨j, by have := x.isLt; rw [regsThrough_length] at hj; omega⟩ := by
  simp [State.regsThrough, State.reg]

theorem loadRegsFrom_reg (s : State) (b : List Byte) (j : Reg) : (s.loadRegsFrom b).reg j = b.getD j.val (s.reg j) := by
  simp [State.loadRegsFrom, State.reg]

theorem writeFlagThenResult_reg (s : State) (x j : Reg) (flag result : Byte) :
    (s.writeFlagThenResult x flag result).reg j = if j = x then result else if j = 0xF then flag else s.reg j := by
  unfold State.writeFlagThenResult
  rw [setReg_reg, setReg_reg]

theorem memWrite_keeps_wf (s : State) (addr : Word) (bytes : List Byte) (h : s.mem.wf = true) :
    (s.memWrite addr bytes).mem.wf = true := by
  rcases memWrite_cases s addr bytes with ⟨-, e⟩ | ⟨-, e⟩ <;> rw [e]
  · exact s.mem.wf_writeFrom addr 0 bytes h
  · exact h

/-! ## Outcomes -/

theorem onNext_eq_next (f : State → State) (o : Host.Outcome State Fault Refusal) (t : State) :
    onNext f o = .next t ↔ ∃ u, o = .next u ∧ f u = t := by
  cases o <;> simp [onNext]

/-! ## The events -/

/-- A timer tick does nothing after a fault; else it counts where the timers run, and drives the outputs (R181). -/
theorem timerTick_cases (s : State) :
    ((∃ f, s.mode = .faulted f) ∧ s.timerTick = s) ∨
    ((∀ f, s.mode ≠ .faulted f) ∧ s.timerTick = s.countTimers.driveOutputs) := by
  unfold State.timerTick
  cases s.mode <;> simp

/-- Where the timers run both count down; else nothing happens. -/
theorem countTimers_cases (s : State) :
    s.countTimers = (s.setDelay (countDown s.dt)).setSound (countDown s.st) ∨ s.countTimers = s := by
  unfold State.countTimers
  cases s.timersRun <;> simp

/-- What a timer tick leaves alone. -/
theorem timerTick_keeps (s : State) : s.timerTick.mem = s.mem ∧ s.timerTick.v = s.v ∧ s.timerTick.i = s.i ∧
    s.timerTick.pc = s.pc ∧ s.timerTick.stack = s.stack ∧ s.timerTick.disp = s.disp ∧ s.timerTick.mode = s.mode ∧
    s.timerTick.batchPos = s.batchPos ∧ s.timerTick.scripted = s.scripted ∧ s.timerTick.time = s.time ∧
    s.timerTick.cfg = s.cfg := by
  obtain ⟨-, e⟩ | ⟨-, e⟩ := timerTick_cases s <;> rw [e]
  · simp
  · obtain e | e := countTimers_cases s <;> rw [e] <;> simp [State.driveOutputs]

/-- A key press completes a wait, or does nothing (44_keypad_timers.md R153). -/
theorem keyPress_cases (s : State) (k : Key) :
    (∃ x, s.mode = .awaitingKey x ∧ s.keyPress k = (s.setReg x (zextKey k)).setMode .running) ∨
    ((∀ x, s.mode ≠ .awaitingKey x) ∧ s.keyPress k = s) := by
  unfold State.keyPress
  cases s.mode <;> simp

/-- A turn without an event: nothing after a fault; else only the inputs and the paint pulse move on. -/
theorem idle_cases (s : State) :
    ((∃ f, s.mode = .faulted f) ∧ s.idle = s) ∨
    ((∀ f, s.mode ≠ .faulted f) ∧ s.idle = (s.setPaint false).sampleInputs) := by
  unfold State.idle
  cases s.mode <;> simp

/-- The frame sequencer's event (70_reset_and_hazards.md R207). -/
theorem sequencerEvent_cases (s : State) :
    (s.frameOn = false ∧ s.sequencerEvent = none) ∨
    (s.frameOn = true ∧ s.batchPos < s.cfg.stepsPerFrame ∧ s.sequencerEvent = some .step) ∨
    (s.frameOn = true ∧ s.cfg.stepsPerFrame ≤ s.batchPos ∧ s.sequencerEvent = some .timerTick) := by
  unfold State.sequencerEvent
  cases s.frameOn with
  | false => simp
  | true => by_cases h : s.batchPos < s.cfg.stepsPerFrame <;> simp [h, not_lt.mp]

/-- The next event: none after a fault; a key press that is awaited; else the sequencer's. -/
theorem nextEvent_cases (s : State) :
    ((∃ f, s.mode = .faulted f) ∧ s.nextEvent = none) ∨
    (∃ x k, s.mode = .awaitingKey x ∧ s.ports.keyPress = some k ∧
      (s.ports.keyFirst = true ∨ s.frameOn = false) ∧ s.nextEvent = some (.keyPress k)) ∨
    ((∀ f, s.mode ≠ .faulted f) ∧
      ((∀ x, s.mode ≠ .awaitingKey x) ∨ s.ports.keyPress = none ∨ (s.ports.keyFirst = false ∧ s.frameOn = true)) ∧
      s.nextEvent = s.sequencerEvent) := by
  unfold State.nextEvent State.awaitingEvent State.sequencerEvent
  cases s.mode with
  | running => simp
  | faulted f => simp
  | awaitingKey x =>
    cases s.ports.keyPress with
    | none => simp
    | some k => cases s.ports.keyFirst <;> cases s.frameOn <;> simp

/-! ## What the step of the machine can do -/

/-- A turn without an event, a key press, a timer tick or a step slot. -/
theorem step_cases (s : State) :
    (s.nextEvent = none ∧ step s = .next s.idle) ∨
    (∃ k, s.nextEvent = some (.keyPress k) ∧ step s = .next ((s.setPaint false).keyPress k).sampleInputs) ∨
    (s.nextEvent = some .timerTick ∧ step s = .next s.endBatch.timerTick.sampleInputs) ∨
    (s.nextEvent = some .step ∧ step s = onNext State.sampleInputs s.takeSlot.stepEvent) := by
  unfold step State.runEvent
  cases h : s.nextEvent with
  | none => simp
  | some e => cases e <;> simp

/-- The step event: nothing unless running; else a fetch fault, an illegal word, or the decoded instruction. -/
theorem stepEvent_cases (s : State) :
    (s.mode ≠ .running ∧ s.stepEvent = .next s) ∨
    (s.mode = .running ∧ accessOk s.cfg s.pc 2 = false ∧ s.stepEvent = .next (s.raise (.memoryOutOfRange s.pc 2))) ∨
    (s.mode = .running ∧ accessOk s.cfg s.pc 2 = true ∧ ∃ e, decodeWord s.fetchWord = .error e ∧
      s.stepEvent = .next (s.advancePc.raise (.unknownOpcode s.fetchWord))) ∨
    (s.mode = .running ∧ accessOk s.cfg s.pc 2 = true ∧ ∃ i, decodeWord s.fetchWord = .ok i ∧
      s.stepEvent = exec i s.advancePc) := by
  unfold State.stepEvent runWord
  cases hm : s.mode with
  | awaitingKey x => simp
  | faulted f => simp
  | running =>
    cases ha : accessOk s.cfg s.pc 2 with
    | false => simp
    | true => cases hd : decodeWord s.fetchWord <;> simp

/-! ## Runs -/

/-- A run begins with its first step. -/
theorem core_run_next (n : Nat) (s t : State) (h : step s = .next t) :
    Host.Core.run Sys2Proof.core (n + 1) s = Host.Core.run Sys2Proof.core n t := by
  have hc : Sys2Proof.core.step s = .next t := h
  simp only [Host.Core.run, hc]

end Sys2Proof.Machine
end

