-- ==== Sys2Proof/Laws/PerInstr.lean ====
section
/-! SUPPORT. Per instruction: the encoder's word has the fixed bits of the instruction's row of spec/opcode_table.json.
The rows' "fixed" entries are written out here a second time, so that the encoder is held against the table. -/

namespace Sys2Proof.Laws.TableRow

/-- The row's "fixed" entries: high bit, low bit, value. -/
def fixedBits : Instr → List (Nat × Nat × Nat)
  | .clearDisplay => [(15, 0, 224)]
  | .ret => [(15, 0, 238)]
  | .jump _ => [(15, 12, 1)]
  | .call _ => [(15, 12, 2)]
  | .skipEqImm _ _ => [(15, 12, 3)]
  | .skipNeImm _ _ => [(15, 12, 4)]
  | .skipEqReg _ _ _ => [(15, 12, 5)]
  | .loadImm _ _ => [(15, 12, 6)]
  | .addImm _ _ => [(15, 12, 7)]
  | .regMove _ _ => [(3, 0, 0), (15, 12, 8)]
  | .orReg _ _ => [(3, 0, 1), (15, 12, 8)]
  | .andReg _ _ => [(3, 0, 2), (15, 12, 8)]
  | .xorReg _ _ => [(3, 0, 3), (15, 12, 8)]
  | .addReg _ _ => [(3, 0, 4), (15, 12, 8)]
  | .subReg _ _ => [(3, 0, 5), (15, 12, 8)]
  | .shr _ _ => [(3, 0, 6), (15, 12, 8)]
  | .subnReg _ _ => [(3, 0, 7), (15, 12, 8)]
  | .shl _ _ => [(3, 0, 14), (15, 12, 8)]
  | .skipNeReg _ _ _ => [(15, 12, 9)]
  | .loadIndex _ => [(15, 12, 10)]
  | .jumpPlusV0 _ => [(15, 12, 11)]
  | .rand _ _ => [(15, 12, 12)]
  | .draw _ _ _ => [(15, 12, 13)]
  | .skipKeyPressed _ => [(7, 0, 158), (15, 12, 14)]
  | .skipKeyNotPressed _ => [(7, 0, 161), (15, 12, 14)]
  | .loadDelay _ => [(7, 0, 7), (15, 12, 15)]
  | .awaitKey _ => [(7, 0, 10), (15, 12, 15)]
  | .storeDelay _ => [(7, 0, 21), (15, 12, 15)]
  | .storeSound _ => [(7, 0, 24), (15, 12, 15)]
  | .addIndex _ => [(7, 0, 30), (15, 12, 15)]
  | .loadFontAddr _ => [(7, 0, 41), (15, 12, 15)]
  | .storeBcd _ => [(7, 0, 51), (15, 12, 15)]
  | .storeRegs _ => [(7, 0, 85), (15, 12, 15)]
  | .loadRegs _ => [(7, 0, 101), (15, 12, 15)]

/-- The encoder's word carries the fixed bits of the row. -/
def Statement (i : Instr) : Prop :=
  ∀ f ∈ fixedBits i, (encode i).toNat / 2 ^ f.2.1 % 2 ^ (f.1 - f.2.1 + 1) = f.2.2

/-! ## The fixed bits of each format (30_encoding.md R62) -/

/-- A statement with one fixed field. -/
theorem one (i : Instr) (a b c : Nat) (h : fixedBits i = [(a, b, c)])
    (h1 : (encode i).toNat / 2 ^ b % 2 ^ (a - b + 1) = c) : Statement i := by
  intro f hf
  rw [h, List.mem_singleton] at hf
  subst hf
  exact h1

/-- A statement with two fixed fields. -/
theorem two (i : Instr) (a b c d e g : Nat) (h : fixedBits i = [(a, b, c), (d, e, g)])
    (h1 : (encode i).toNat / 2 ^ b % 2 ^ (a - b + 1) = c)
    (h2 : (encode i).toNat / 2 ^ e % 2 ^ (d - e + 1) = g) : Statement i := by
  intro f hf
  rw [h, List.mem_cons, List.mem_singleton] at hf
  obtain rfl | rfl := hf
  · exact h1
  · exact h2

theorem topNNN (op : Nat) (nnn : BitVec 12) (h : op < 16) : (packNNN op nnn).toNat / 2 ^ 12 % 2 ^ (15 - 12 + 1) = op := by
  rw [packNNN_toNat op nnn h]
  omega

theorem topXKK (op : Nat) (x : Reg) (kk : Nat) (h : op < 16) (hk : kk < 256) :
    (packXKK op x kk).toNat / 2 ^ 12 % 2 ^ (15 - 12 + 1) = op := by
  rw [packXKK_toNat op x kk h hk]
  omega

theorem lowXKK (op : Nat) (x : Reg) (kk : Nat) (h : op < 16) (hk : kk < 256) :
    (packXKK op x kk).toNat / 2 ^ 0 % 2 ^ (7 - 0 + 1) = kk := by
  rw [packXKK_toNat op x kk h hk]
  omega

theorem topXYN (op : Nat) (x y : Reg) (n : Nat) (h : op < 16) (hn : n < 16) :
    (packXYN op x y n).toNat / 2 ^ 12 % 2 ^ (15 - 12 + 1) = op := by
  rw [packXYN_toNat op x y n h hn]
  omega

theorem lowXYN (op : Nat) (x y : Reg) (n : Nat) (h : op < 16) (hn : n < 16) :
    (packXYN op x y n).toNat / 2 ^ 0 % 2 ^ (3 - 0 + 1) = n := by
  rw [packXYN_toNat op x y n h hn]
  omega

/-! ## One lemma per instruction -/

theorem clearDisplay : Statement (.clearDisplay) :=
  one _ _ _ _ rfl (by decide)

theorem ret : Statement (.ret) :=
  one _ _ _ _ rfl (by decide)

theorem jump (nnn : BitVec 12) : Statement (.jump nnn) :=
  one _ _ _ _ rfl (topNNN _ nnn (by decide))

theorem call (nnn : BitVec 12) : Statement (.call nnn) :=
  one _ _ _ _ rfl (topNNN _ nnn (by decide))

theorem skipEqImm (x : Reg) (kk : Byte) : Statement (.skipEqImm x kk) :=
  one _ _ _ _ rfl (topXKK _ x _ (by decide) kk.isLt)

theorem skipNeImm (x : Reg) (kk : Byte) : Statement (.skipNeImm x kk) :=
  one _ _ _ _ rfl (topXKK _ x _ (by decide) kk.isLt)

theorem skipEqReg (x y : Reg) (low : BitVec 4) : Statement (.skipEqReg x y low) :=
  one _ _ _ _ rfl (topXYN _ x y _ (by decide) (by decide))

theorem loadImm (x : Reg) (kk : Byte) : Statement (.loadImm x kk) :=
  one _ _ _ _ rfl (topXKK _ x _ (by decide) kk.isLt)

theorem addImm (x : Reg) (kk : Byte) : Statement (.addImm x kk) :=
  one _ _ _ _ rfl (topXKK _ x _ (by decide) kk.isLt)

theorem regMove (x y : Reg) : Statement (.regMove x y) :=
  two _ _ _ _ _ _ _ rfl (lowXYN _ x y _ (by decide) (by decide)) (topXYN _ x y _ (by decide) (by decide))

theorem orReg (x y : Reg) : Statement (.orReg x y) :=
  two _ _ _ _ _ _ _ rfl (lowXYN _ x y _ (by decide) (by decide)) (topXYN _ x y _ (by decide) (by decide))

theorem andReg (x y : Reg) : Statement (.andReg x y) :=
  two _ _ _ _ _ _ _ rfl (lowXYN _ x y _ (by decide) (by decide)) (topXYN _ x y _ (by decide) (by decide))

theorem xorReg (x y : Reg) : Statement (.xorReg x y) :=
  two _ _ _ _ _ _ _ rfl (lowXYN _ x y _ (by decide) (by decide)) (topXYN _ x y _ (by decide) (by decide))

theorem addReg (x y : Reg) : Statement (.addReg x y) :=
  two _ _ _ _ _ _ _ rfl (lowXYN _ x y _ (by decide) (by decide)) (topXYN _ x y _ (by decide) (by decide))

theorem subReg (x y : Reg) : Statement (.subReg x y) :=
  two _ _ _ _ _ _ _ rfl (lowXYN _ x y _ (by decide) (by decide)) (topXYN _ x y _ (by decide) (by decide))

theorem shr (x y : Reg) : Statement (.shr x y) :=
  two _ _ _ _ _ _ _ rfl (lowXYN _ x 0 _ (by decide) (by decide)) (topXYN _ x 0 _ (by decide) (by decide))

theorem subnReg (x y : Reg) : Statement (.subnReg x y) :=
  two _ _ _ _ _ _ _ rfl (lowXYN _ x y _ (by decide) (by decide)) (topXYN _ x y _ (by decide) (by decide))

theorem shl (x y : Reg) : Statement (.shl x y) :=
  two _ _ _ _ _ _ _ rfl (lowXYN _ x 0 _ (by decide) (by decide)) (topXYN _ x 0 _ (by decide) (by decide))

theorem skipNeReg (x y : Reg) (low : BitVec 4) : Statement (.skipNeReg x y low) :=
  one _ _ _ _ rfl (topXYN _ x y _ (by decide) (by decide))

theorem loadIndex (nnn : BitVec 12) : Statement (.loadIndex nnn) :=
  one _ _ _ _ rfl (topNNN _ nnn (by decide))

theorem jumpPlusV0 (nnn : BitVec 12) : Statement (.jumpPlusV0 nnn) :=
  one _ _ _ _ rfl (topNNN _ nnn (by decide))

theorem rand (x : Reg) (kk : Byte) : Statement (.rand x kk) :=
  one _ _ _ _ rfl (topXKK _ x _ (by decide) kk.isLt)

theorem draw (x y : Reg) (n : Fin 16) : Statement (.draw x y n) :=
  one _ _ _ _ rfl (topXYN _ x y _ (by decide) n.isLt)

theorem skipKeyPressed (x : Reg) : Statement (.skipKeyPressed x) :=
  two _ _ _ _ _ _ _ rfl (lowXKK _ x _ (by decide) (by decide)) (topXKK _ x _ (by decide) (by decide))

theorem skipKeyNotPressed (x : Reg) : Statement (.skipKeyNotPressed x) :=
  two _ _ _ _ _ _ _ rfl (lowXKK _ x _ (by decide) (by decide)) (topXKK _ x _ (by decide) (by decide))

theorem loadDelay (x : Reg) : Statement (.loadDelay x) :=
  two _ _ _ _ _ _ _ rfl (lowXKK _ x _ (by decide) (by decide)) (topXKK _ x _ (by decide) (by decide))

theorem awaitKey (x : Reg) : Statement (.awaitKey x) :=
  two _ _ _ _ _ _ _ rfl (lowXKK _ x _ (by decide) (by decide)) (topXKK _ x _ (by decide) (by decide))

theorem storeDelay (x : Reg) : Statement (.storeDelay x) :=
  two _ _ _ _ _ _ _ rfl (lowXKK _ x _ (by decide) (by decide)) (topXKK _ x _ (by decide) (by decide))

theorem storeSound (x : Reg) : Statement (.storeSound x) :=
  two _ _ _ _ _ _ _ rfl (lowXKK _ x _ (by decide) (by decide)) (topXKK _ x _ (by decide) (by decide))

theorem addIndex (x : Reg) : Statement (.addIndex x) :=
  two _ _ _ _ _ _ _ rfl (lowXKK _ x _ (by decide) (by decide)) (topXKK _ x _ (by decide) (by decide))

theorem loadFontAddr (x : Reg) : Statement (.loadFontAddr x) :=
  two _ _ _ _ _ _ _ rfl (lowXKK _ x _ (by decide) (by decide)) (topXKK _ x _ (by decide) (by decide))

theorem storeBcd (x : Reg) : Statement (.storeBcd x) :=
  two _ _ _ _ _ _ _ rfl (lowXKK _ x _ (by decide) (by decide)) (topXKK _ x _ (by decide) (by decide))

theorem storeRegs (x : Reg) : Statement (.storeRegs x) :=
  two _ _ _ _ _ _ _ rfl (lowXKK _ x _ (by decide) (by decide)) (topXKK _ x _ (by decide) (by decide))

theorem loadRegs (x : Reg) : Statement (.loadRegs x) :=
  two _ _ _ _ _ _ _ rfl (lowXKK _ x _ (by decide) (by decide)) (topXKK _ x _ (by decide) (by decide))

end Sys2Proof.Laws.TableRow
end

