-- ==== Sys2Proof/Tests/Slice0.lean ====
section
/-! SUPPORT. The model's own tests. Expected results come from 95_test_vectors.md (S and T numbers), from the encoding
table of 30_encoding.md R73, or are worked by hand from a rule; each test's comment says which. A witness shows a
concrete state and operands that meet the hypotheses of one clause of a statement. -/

namespace Sys2Proof.Tests

open Sys2Proof Sys2Proof.Machine

/-! ## Well-formed instructions: the don't-care field must be 0 (R72) -/

theorem test_wf_skip_eq_reg : (Instr.skipEqReg 1 2 0xF).wellFormed = false := by decide
theorem test_wf_skip_ne_reg : (Instr.skipNeReg 1 2 0x7).wellFormed = false := by decide
theorem test_wf_shr : (Instr.shr 1 2).wellFormed = false := by decide
theorem test_wf_shl : (Instr.shl 1 0xF).wellFormed = false := by decide
theorem test_wf_accepts : (Instr.skipEqReg 1 2 0).wellFormed = true ∧ (Instr.shr 1 0).wellFormed = true := by decide

/-! ## Decoding: words written out from the table of R73 (x = A, y = B, kk = 5C, nnn = ABC) -/

theorem test_decode_families_0_to_3 : decodeWord 0x00E0 = .ok .clearDisplay ∧ decodeWord 0x00EE = .ok .ret ∧
    decodeWord 0x1ABC = .ok (.jump 0xABC) ∧ decodeWord 0x2ABC = .ok (.call 0xABC) ∧
    decodeWord 0x3A5C = .ok (.skipEqImm 0xA 0x5C) := by decide
theorem test_decode_families_4_to_7 : decodeWord 0x4A5C = .ok (.skipNeImm 0xA 0x5C) ∧
    decodeWord 0x5AB0 = .ok (.skipEqReg 0xA 0xB 0) ∧ decodeWord 0x6A5C = .ok (.loadImm 0xA 0x5C) ∧
    decodeWord 0x7A5C = .ok (.addImm 0xA 0x5C) := by decide
theorem test_decode_family_8 : decodeWord 0x8AB0 = .ok (.regMove 0xA 0xB) ∧ decodeWord 0x8AB1 = .ok (.orReg 0xA 0xB) ∧
    decodeWord 0x8AB2 = .ok (.andReg 0xA 0xB) ∧ decodeWord 0x8AB3 = .ok (.xorReg 0xA 0xB) ∧
    decodeWord 0x8AB4 = .ok (.addReg 0xA 0xB) ∧ decodeWord 0x8AB5 = .ok (.subReg 0xA 0xB) ∧
    decodeWord 0x8A06 = .ok (.shr 0xA 0) ∧ decodeWord 0x8AB7 = .ok (.subnReg 0xA 0xB) ∧
    decodeWord 0x8A0E = .ok (.shl 0xA 0) := by decide
theorem test_decode_families_9_to_D : decodeWord 0x9AB0 = .ok (.skipNeReg 0xA 0xB 0) ∧
    decodeWord 0xAABC = .ok (.loadIndex 0xABC) ∧ decodeWord 0xBABC = .ok (.jumpPlusV0 0xABC) ∧
    decodeWord 0xCA5C = .ok (.rand 0xA 0x5C) ∧ decodeWord 0xDAB7 = .ok (.draw 0xA 0xB 7) := by decide
theorem test_decode_family_E : decodeWord 0xEA9E = .ok (.skipKeyPressed 0xA) ∧
    decodeWord 0xEAA1 = .ok (.skipKeyNotPressed 0xA) := by decide
theorem test_decode_family_F : decodeWord 0xFA07 = .ok (.loadDelay 0xA) ∧ decodeWord 0xFA0A = .ok (.awaitKey 0xA) ∧
    decodeWord 0xFA15 = .ok (.storeDelay 0xA) ∧ decodeWord 0xFA18 = .ok (.storeSound 0xA) ∧
    decodeWord 0xFA1E = .ok (.addIndex 0xA) ∧ decodeWord 0xFA29 = .ok (.loadFontAddr 0xA) ∧
    decodeWord 0xFA33 = .ok (.storeBcd 0xA) ∧ decodeWord 0xFA55 = .ok (.storeRegs 0xA) ∧
    decodeWord 0xFA65 = .ok (.loadRegs 0xA) := by decide
/-- T6, T7, T10: the don't-care bits. -/
theorem test_decode_dont_care : decodeWord 0x512F = .ok (.skipEqReg 1 2 0xF) ∧
    decodeWord 0x9127 = .ok (.skipNeReg 1 2 7) ∧ decodeWord 0x81F6 = .ok (.shr 1 0xF) ∧
    decodeWord 0x812E = .ok (.shl 1 2) := by decide
/-- The decoder rejects the word, and names it. -/
def rejects (w : Word) : Bool := decide (decodeWord w = .error (.unknownOpcode w))

/-- T3, T4, T5. -/
theorem test_decode_illegal_0 :
    ([0x0000, 0x01E0, 0x0FEE, 0x00E1, 0x00FE, 0x0123].map rejects).all id = true := by decide
/-- T8, T12, T14. -/
theorem test_decode_illegal_8EF :
    ([0x8128, 0x812D, 0x812F, 0xE100, 0xE19F, 0xE1A0, 0xE1FF, 0xF100, 0xF11F, 0xF199].map rejects).all id = true := by
  decide
/-- R72, T6: the encoder writes 0 in the don't-care positions. -/
theorem test_encode_dont_care : encode (.skipEqReg 1 2 0xF) = 0x5120 ∧ encode (.shl 1 2) = 0x810E := by decide
/-- R61, the example under T16: the bits of 0xD12F. -/
theorem test_table_word : decodeTableWord 16 0xD12F = some (.draw 1 2 0xF) ∧ decodeTableWord 16 0xFA99 = none := by
  decide

/-! ## Single instructions -/

/-- Nothing held, nothing pressed, 0xA7 at the random port, a frame asked for. -/
def quiet : Inputs where
  keyHeld := Vector.replicate 16 false
  keyPress := none
  randByte := 0xA7
  frameStrobe := true
  keyFirst := true

/-- The state every test starts from: reset, quiet inputs. -/
def s0 : State := State.resetWith defaultConfig [quiet] 0

/-- `s0` with one register set. -/
def with1 (x : Reg) (a : Byte) : State := s0.setReg x a

/-- `s0` with two registers set. -/
def with2 (x : Reg) (a : Byte) (y : Reg) (b : Byte) : State := (with1 x a).setReg y b

/-- The state after an instruction (the one before it, where the model stops: no instruction does). -/
def after (i : Instr) (s : State) : State :=
  match exec i s with
  | .next t => t
  | .fault _ => s
  | .refused _ => s

/-- The state after one event. -/
def afterStep (s : State) : State :=
  match step s with
  | .next t => t
  | .fault _ => s
  | .refused _ => s

/-- T40, T41. -/
theorem test_load_imm : (after (.loadImm 0xA 0xFF) s0).reg 0xA = 0xFF ∧
    (after (.loadImm 0xF 0) (with1 0xF 7)).reg 0xF = 0 := by decide
/-- S1, T43. -/
theorem test_add_imm : (after (.addImm 1 2) (with1 1 0xFF)).reg 1 = 1 ∧ (after (.addImm 1 2) (with1 1 0xFF)).reg 0xF = 0 ∧
    (after (.addImm 0xF 2) (with1 0xF 0xFF)).reg 0xF = 1 := by decide
/-- T44. -/
theorem test_reg_move : (after (.regMove 1 2) (with2 1 0 2 0x5A)).reg 1 = 0x5A := by decide
/-- 2.3, rows AA 55 and 0F F0, and VF left alone. -/
theorem test_logic : (after (.orReg 1 2) (with2 1 0xAA 2 0x55)).reg 1 = 0xFF ∧
    (after (.andReg 1 2) (with2 1 0x0F 2 0xF0)).reg 1 = 0 ∧ (after (.xorReg 1 2) (with2 1 0xFF 2 0x01)).reg 1 = 0xFE ∧
    (after (.xorReg 1 2) ((with2 1 0xFF 2 0x01).setReg 0xF 0xAB)).reg 0xF = 0xAB := by decide
/-- S2; 2.3, row 7F 80: the sum 255 sets no carry. -/
theorem test_add_reg : (after (.addReg 0 1) (with2 0 0xFF 1 1)).reg 0 = 0 ∧
    (after (.addReg 0 1) (with2 0 0xFF 1 1)).reg 0xF = 1 ∧ (after (.addReg 1 2) (with2 1 0x7F 2 0x80)).reg 1 = 0xFF ∧
    (after (.addReg 1 2) (with2 1 0x7F 2 0x80)).reg 0xF = 0 := by decide
/-- T60: the sum overwrites the carry. -/
theorem test_add_reg_into_vf : (after (.addReg 0xF 1) (with2 0xF 0xF0 1 0x20)).reg 0xF = 0x10 := by decide
/-- S3; T47: equal operands give 0. -/
theorem test_sub_reg : (after (.subReg 1 2) (with2 1 5 2 3)).reg 1 = 2 ∧ (after (.subReg 1 2) (with2 1 5 2 3)).reg 0xF = 1 ∧
    (after (.subReg 1 2) (with2 1 3 2 5)).reg 1 = 254 ∧ (after (.subReg 1 2) (with2 1 3 2 5)).reg 0xF = 0 ∧
    (after (.subReg 1 1) ((with1 1 9).setReg 0xF 1)).reg 0xF = 0 := by decide
/-- 2.3, row AA 55; T67: VF as the second operand is read before the flag is written. -/
theorem test_subn_reg : (after (.subnReg 1 2) (with2 1 0xAA 2 0x55)).reg 1 = 0xAB ∧
    (after (.subnReg 1 0xF) (with2 1 5 0xF 3)).reg 1 = 0xFE ∧ (after (.subnReg 1 0xF) (with2 1 5 0xF 3)).reg 0xF = 0 := by
  decide
/-- S4; T70: `y` = F is ignored. -/
theorem test_shr : (after (.shr 1 0) (with1 1 3)).reg 1 = 1 ∧ (after (.shr 1 0) (with1 1 3)).reg 0xF = 1 ∧
    (after (.shr 1 0xF) (with2 1 4 0xF 9)).reg 1 = 2 := by decide
/-- T64; 2.3, row 80; the un-normalised flag of R112. -/
theorem test_shl : (after (.shl 0xF 0) (with1 0xF 0x81)).reg 0xF = 2 ∧ (after (.shl 1 2) (with1 1 0x80)).reg 0xF = 1 ∧
    (after (.shl 1 0)
      { with1 1 0x81 with cfg := { defaultConfig with shlFlagNormalised := false } }).reg 0xF = 0x80 := by decide
/-- T48. -/
theorem test_rand : (after (.rand 3 0x0F) s0).reg 3 = 7 := by decide

/-- S5: call, then return. -/
theorem test_call : (after (.call 0x300) (s0.setPc 0x202)).stack = [0x202] ∧
    (after (.call 0x300) (s0.setPc 0x202)).pc = 0x300 := by decide
/-- T35: the stack is full at 16 entries. -/
theorem test_call_full : (after (.call 0x200) (s0.setStack (List.replicate 16 0x202))).mode = .faulted .stackOverflow ∧
    (after (.call 0x200) (s0.setStack (List.replicate 15 0x202))).mode = .running := by decide
/-- S5, S6. -/
theorem test_return : (after .ret (s0.setStack [0x202, 0x300])).pc = 0x202 ∧
    (after .ret (s0.setStack [0x202, 0x300])).stack = [0x300] ∧ (after .ret s0).mode = .faulted .stackUnderflow := by decide
/-- T20. -/
theorem test_jump : (after (.jump 0x234) s0).pc = 0x234 := by decide
/-- T24. -/
theorem test_jump_plus_v0 : (after (.jumpPlusV0 0xFFF) (with1 0 0xFF)).pc = 0x10FE := by decide
/-- T25, T26, with `PC` advanced to 0x202. -/
theorem test_skip_imm : (after (.skipEqImm 1 0x42) ((with1 1 0x42).setPc 0x202)).pc = 0x204 ∧
    (after (.skipEqImm 1 0x43) ((with1 1 0x42).setPc 0x202)).pc = 0x202 ∧
    (after (.skipNeImm 1 0x42) ((with1 1 0x42).setPc 0x202)).pc = 0x202 ∧
    (after (.skipNeImm 1 0x43) ((with1 1 0x42).setPc 0x202)).pc = 0x204 := by decide
/-- T27, T28, T29. -/
theorem test_skip_reg : (after (.skipEqReg 1 2 1) ((with2 1 7 2 7).setPc 0x202)).pc = 0x204 ∧
    (after (.skipEqReg 1 2 0) ((with2 1 7 2 8).setPc 0x202)).pc = 0x202 ∧
    (after (.skipNeReg 1 2 1) ((with2 1 7 2 7).setPc 0x202)).pc = 0x202 ∧
    (after (.skipNeReg 1 2 0) ((with2 1 7 2 8).setPc 0x202)).pc = 0x204 := by decide

/-- T80. -/
theorem test_load_index : (after (.loadIndex 0x123) s0).i = 0x123 := by decide
/-- T81, T82. -/
theorem test_add_index : (after (.addIndex 1) ((with1 1 1).setIndex 0xFFF)).i = 0x1000 ∧
    (after (.addIndex 1) ((with1 1 1).setIndex 0xFFFF)).i = 0 := by decide
/-- T83, T85. -/
theorem test_load_font_addr : (after (.loadFontAddr 1) (with1 1 0xF)).i = 0x4B ∧
    (after (.loadFontAddr 1) (with1 1 0xFF)).i = 0x4FB := by decide
/-- S10, T87. -/
theorem test_store_bcd : (after (.storeBcd 1) ((with1 1 123).setIndex 0x300)).mem = [(0x300, 1), (0x301, 2), (0x302, 3)] ∧
    (after (.storeBcd 1) ((with1 1 255).setIndex 0xFFD)).mem = [(0xFFD, 2), (0xFFE, 5), (0xFFF, 5)] := by decide
/-- T88. -/
theorem test_store_bcd_beyond : (after (.storeBcd 1) ((with1 1 255).setIndex 0xFFE)).mode =
    .faulted (.memoryOutOfRange 0xFFE 3) ∧ (after (.storeBcd 1) ((with1 1 255).setIndex 0xFFE)).mem = [] := by decide
/-- T93, T94. -/
theorem test_store_regs : (after (.storeRegs 1) (((with2 0 0xAA 1 0xBB).setReg 2 0xCC).setIndex 0x300)).mem =
    [(0x300, 0xAA), (0x301, 0xBB)] ∧ (after (.storeRegs 0) (with1 0 0x99)).mem = [(0, 0x99)] := by decide
/-- T91, T92. -/
theorem test_load_regs : (after (.loadRegs 0) ((s0.setMem [(0xFFF, 0x77)]).setIndex 0xFFF)).reg 0 = 0x77 ∧
    (after (.loadRegs 1) ((s0.setMem [(0xFFF, 0x77)]).setIndex 0xFFF)).mode = .faulted (.memoryOutOfRange 0xFFF 2) ∧
    (after (.loadRegs 1) ((s0.setMem [(0xFFF, 0x77)]).setIndex 0xFFF)).reg 0 = 0 := by decide
/-- T95, at the upper end of the range. -/
theorem test_load_regs_all : (after (.loadRegs 0xF) ((s0.setMem [(0x30E, 0x0E), (0x30F, 0x0F)]).setIndex 0x300)).reg 0xF =
    0x0F := by decide

/-- A state whose display has one pixel on, at [0][0], and the sprite byte `b` at `I` = 0x300. -/
def pixelOn (b : Byte) : State := ((s0.setDisp (Display.clear.flip 0 0)).setMem [(0x300, b)]).setIndex 0x300

/-- T109. -/
theorem test_clear_display : (after .clearDisplay (pixelOn 0x80)).disp = Display.clear := by decide
/-- T103. -/
theorem test_draw_collision : (after (.draw 0 1 1) (pixelOn 0xC0)).reg 0xF = 1 ∧
    (after (.draw 0 1 1) (pixelOn 0xC0)).disp.pixel 0 0 = false ∧
    (after (.draw 0 1 1) (pixelOn 0xC0)).disp.pixel 1 0 = true := by decide
/-- T102: both coordinates wrap; T107: nothing drawn before the fault. -/
theorem test_draw_wrap : (after (.draw 0 1 1) (((with2 0 255 1 255).setMem [(0x300, 0x81)]).setIndex 0x300)).disp =
    (Display.clear.flip 63 31).flip 6 31 ∧
    (after (.draw 0 1 2) ((with1 0xF 9).setIndex 0xFFF)).reg 0xF = 9 := by decide

/-- Key 5 held. -/
def held5 : State := { with1 1 5 with scripted := [{ quiet with keyHeld := (Vector.replicate 16 false).set 5 true }] }

/-- T120, T121. -/
theorem test_skip_key_pressed : (after (.skipKeyPressed 1) held5).pc = 0x202 ∧
    (after (.skipKeyPressed 1) (held5.setReg 1 4)).pc = 0x200 := by decide
/-- T120, T122: key 0x10 does not exist. -/
theorem test_skip_key_not_pressed : (after (.skipKeyNotPressed 1) held5).pc = 0x200 ∧
    (after (.skipKeyNotPressed 1) (held5.setReg 1 0x10)).pc = 0x202 := by decide
/-- T123. -/
theorem test_await_key : (after (.awaitKey 3) s0).mode = .awaitingKey 3 := by decide
/-- T128, T129. -/
theorem test_timer_moves : (after (.loadDelay 1) (s0.setDelay 0x2A)).reg 1 = 0x2A ∧
    (after (.storeDelay 1) (with1 1 0x2A)).dt = 0x2A ∧ (after (.storeSound 1) (with1 1 0x2A)).st = 0x2A ∧
    (after (.storeSound 1) (with1 1 0x2A)).tone = false := by decide

/-! ## Events -/

/-- R64: fetch, advance, execute: 0x6A55 at 0x203 (T34: an odd `PC` is legal). -/
theorem test_step_runs : (afterStep ((s0.setMem [(0x203, 0x6A), (0x204, 0x55)]).setPc 0x203)).reg 0xA = 0x55 ∧
    (afterStep ((s0.setMem [(0x203, 0x6A), (0x204, 0x55)]).setPc 0x203)).pc = 0x205 := by decide
/-- T32, T33: the last word can be fetched, the last byte cannot. -/
theorem test_step_top : (afterStep ((s0.setMem [(0xFFE, 0x60), (0xFFF, 0x11)]).setPc 0xFFE)).pc = 0x1000 ∧
    (afterStep (s0.setPc 0xFFF)).mode = .faulted (.memoryOutOfRange 0xFFF 2) ∧ (afterStep (s0.setPc 0xFFF)).pc = 0xFFF := by
  decide
/-- T142, S11: an illegal word faults after the advance. -/
theorem test_step_illegal : (afterStep s0).mode = .faulted (.unknownOpcode 0x0000) ∧ (afterStep s0).pc = 0x202 := by decide
/-- P6, the last remark: with wrapping addresses the word at 0xFFF ends at 0x000. -/
theorem test_step_wraps : (afterStep { (s0.setMem [(0, 0x34), (0xFFF, 0x12)]).setPc 0xFFF with
    cfg := { defaultConfig with oobPolicy := .wrap } }).pc = 0x234 := by decide
/-- T125, T127. -/
theorem test_key_press : ((s0.setMode (.awaitingKey 3)).keyPress 0xB).reg 3 = 0xB ∧
    ((s0.setMode (.awaitingKey 3)).keyPress 0xB).mode = .running ∧
    (((with1 0xF 9).setMode (.awaitingKey 0xF)).keyPress 0).reg 0xF = 0 := by decide
/-- T126. -/
theorem test_key_press_running : s0.keyPress 0xB = s0 := by decide
/-- T131, T132. -/
theorem test_tick_tone : (s0.setSound 1).timerTick.tone = false ∧ (s0.setSound 2).timerTick.tone = true ∧
    (s0.setSound 2).timerTick.st = 1 := by decide
/-- T133. -/
theorem test_tick_awaiting : ((s0.setDelay 3).setMode (.awaitingKey 0)).timerTick.dt = 2 ∧
    { (s0.setDelay 3).setMode (.awaitingKey 0) with
      cfg := { defaultConfig with timersRunWhileAwaiting := false } }.timerTick.dt = 3 := by decide
/-- T134. -/
theorem test_tick_faulted : ((s0.setDelay 3).raise .stackUnderflow).timerTick.dt = 3 := by decide
/-- R207: after ten slots comes the tick. -/
theorem test_tick_ends_batch : (afterStep ((s0.setDelay 3).setBatchPos 10)).dt = 2 ∧
    (afterStep ((s0.setDelay 3).setBatchPos 10)).batchPos = 0 ∧ (afterStep ((s0.setDelay 3).setBatchPos 9)).dt = 3 := by
  decide
/-- T141, T144. -/
theorem test_reset_and_load : (s0.raise .stackUnderflow).hostReset = s0 ∧ (s0.loadProgram [0x12, 0x34]).mem =
    [(0x200, 0x12), (0x201, 0x34)] := by decide
/-- T143, the first glyph byte and the last. -/
theorem test_font : defaultFontTable[0] = 0xF0 ∧ defaultFontTable[0x4F] = 0x80 := by decide
/-- The word is placed where the next step fetches: at reset two bytes change and a frame is asked for (assumption 10). -/
theorem test_placed_word : State.reset.withFetchWord 16 0x6A55 =
    { State.reset with
      mem := [(0x200, 0x6A), (0x201, 0x55)], scripted := [{ Config.environment 0 with frameStrobe := true }] } := by rfl
/-- R207: a frame begins only when it is asked for; in the middle of one the strobe is not looked at. -/
theorem test_frame_strobe : { s0 with scripted := [{ quiet with frameStrobe := false }] }.nextEvent = none ∧
    s0.nextEvent = some .step ∧
    { s0 with scripted := [{ quiet with frameStrobe := false }], batchPos := 10 }.nextEvent = some .timerTick := by decide
/-- R183: a key press and a strobe together, in both orders. -/
theorem test_key_and_strobe :
    { s0.setMode (.awaitingKey 3) with scripted := [{ quiet with keyPress := some 7 }] }.nextEvent = some (.keyPress 7) ∧
    { s0.setMode (.awaitingKey 3) with
      scripted := [{ quiet with keyPress := some 7, keyFirst := false }] }.nextEvent = some .step := by decide

/-- The bytes of vector T48 run from reset itself: the placed rand sees the scripted byte. -/
theorem test_scripted_byte : (afterStep ({ State.reset with scripted := [quiet] }.withFetchWord 16 0xC30F)).reg 3 = 7 := by
  decide

/-! ## Witnesses: the hypotheses of each clause of each statement are met -/

/-- `s0` with addresses that wrap. -/
def wrapping : State := { s0 with cfg := { defaultConfig with oobPolicy := .wrap } }

/-- `s0` with an unbounded stack. -/
def unbounded : State := { s0 with cfg := { defaultConfig with stackCapacity := none } }

/-- `s0` whose frames have no step slots. -/
def noSlots : State := { s0 with cfg := { defaultConfig with stepsPerFrame := 0 } }

/-- `s0` awaiting a key for `x`. -/
def awaiting (x : Reg) : State := s0.setMode (.awaitingKey x)

/-- The words of LoadImmWritesTheImmediate, AddImmWrapsAndTouchesNoFlag, ImmediateSkips, LoadIndexSetsI, every operand at
its largest value. -/
theorem witness_words : (0x6FFF : Word).toNat = 0x6000 + (0xF : Reg).val * 0x100 + (0xFF : Byte).toNat ∧
    (0x7FFF : Word).toNat = 0x7000 + (0xF : Reg).val * 0x100 + (0xFF : Byte).toNat ∧
    (0x3FFF : Word).toNat = 0x3000 + (0xF : Reg).val * 0x100 + (0xFF : Byte).toNat ∧
    (0x4FFF : Word).toNat = 0x4000 + (0xF : Reg).val * 0x100 + (0xFF : Byte).toNat ∧
    (0xAFFF : Word).toNat = 0xA000 + (0xFFF : BitVec 12).toNat := by decide

/-- RandMasksAFreeByte. -/
theorem witness_random_byte : s0.ports.randByte = 0xA7 := by decide

/-- ReturnPopsOrUnderflows: the empty stack; a stack whose entry is the largest word. -/
theorem witness_return : s0.stack = [] ∧ (s0.setStack [0xFFFF]).stack = [0xFFFF] := by decide

/-- CallPushesOrOverflows and ReturnUndoesCall: one place left. -/
theorem witness_call_room : ∀ cap, (s0.setStack (List.replicate 15 0x202)).cfg.stackCapacity = some cap →
    (s0.setStack (List.replicate 15 0x202)).stack.length < cap := by
  intro cap h
  obtain rfl : 16 = cap := by simpa [s0, State.setStack, State.resetWith, defaultConfig] using h
  decide

/-- CallPushesOrOverflows: no capacity, a deep stack. -/
theorem witness_call_unbounded : ∀ cap, (unbounded.setStack (List.replicate 20 0x202)).cfg.stackCapacity = some cap →
    (unbounded.setStack (List.replicate 20 0x202)).stack.length < cap := by
  intro cap h
  simp [unbounded, State.setStack] at h

/-- CallPushesOrOverflows: the full stack. -/
theorem witness_call_full : (s0.setStack (List.replicate 16 0x202)).cfg.stackCapacity =
    some (s0.setStack (List.replicate 16 0x202)).stack.length := by decide

/-- ReturnUndoesCall: a state with the stack the call left, elsewhere in the program. -/
theorem witness_return_after_call : ((after (.call 0x300) s0).setPc 0x400).stack = (after (.call 0x300) s0).stack := by
  decide

/-- The three accesses at the last address where each fits: 3 bytes at 0xFFD, 16 at 0xFF0, 1 at 0xFFF. -/
theorem witness_access_fits : canAccess s0 0xFFD 3 ∧ canAccess s0 0xFF0 16 ∧ canAccess s0 0xFFF 1 := by
  unfold canAccess
  decide

/-- A draw of no rows fits anywhere, and so does any access that wraps. -/
theorem witness_access_always_fits : canAccess s0 0xFFFF 0 ∧ canAccess wrapping 0xFFFF 16 := by
  unfold canAccess
  decide

/-- AccessBeyondMemoryFaults and StepCycle: one byte too far, for draw, store-bcd, the register ranges, the fetch. -/
theorem witness_access_beyond : ¬ canAccess (s0.setIndex 0xFFF) (s0.setIndex 0xFFF).i 2 ∧
    ¬ canAccess (s0.setIndex 0xFFE) (s0.setIndex 0xFFE).i 3 ∧ ¬ canAccess (s0.setIndex 0xFF1) (s0.setIndex 0xFF1).i 16 ∧
    ¬ canAccess (s0.setPc 0xFFF) (s0.setPc 0xFFF).pc 2 := by
  unfold canAccess
  decide

/-- The stores and the load at states whose `I` is the last that fits. -/
theorem witness_index_fits : canAccess (s0.setIndex 0xFFD) (s0.setIndex 0xFFD).i 3 ∧
    canAccess (s0.setIndex 0xFF0) (s0.setIndex 0xFF0).i ((0xF : Reg).val + 1) := by
  unfold canAccess
  decide

/-- StoreBcdWritesTheDigits, StoreRegsWritesTheRange, OnlyTheStoredBytesChange: an address outside the stored bytes. -/
theorem witness_unstored_address : (∀ j, j < 3 → 0xFFC ≠ byteAddr 0xFFD j) ∧ (∀ j, j < 16 → 0xFEF ≠ byteAddr 0xFF0 j) := by
  decide

/-- StoreRegsThenLoadRegsRestores: the registers zeroed in between (S9). -/
theorem witness_between_store_and_load :
    let t := after (.storeRegs 3) ((with1 0 0x11).setIndex 0x300)
    let u := t.setReg 0 0
    (∀ a, u.byte a = t.byte a) ∧ u.i = 0x300 ∧ u.cfg = s0.cfg :=
  ⟨fun _ => rfl, rfl, rfl⟩

/-- DrawInvertsTheSpriteCells: a covered cell that is on, and a cell no sprite bit falls on. -/
theorem witness_sprite : canAccess (pixelOn 0x80) (pixelOn 0x80).i (1 : Fin 16).val ∧
    spriteCovers (pixelOn 0x80) 0 0 1 0 0 ∧ (pixelOn 0x80).disp[(0 : Fin 32)][(0 : Fin 64)] = true ∧
    ¬ spriteCovers (pixelOn 0x80) 0 0 1 31 63 := by
  refine ⟨Or.inr (Or.inr (by decide)), ⟨0, 0, by decide⟩, by decide, ?_⟩
  rintro ⟨k, j, hk, hj, hr, -, -⟩
  obtain rfl : k = 0 := by omega
  simp at hr

/-- DrawInvertsTheSpriteCells: a sprite whose every covered cell is off, since it has no set bit (T105). -/
theorem witness_blank_sprite : ∀ r c, spriteCovers ((s0.setMem []).setIndex 0x300) 0 0 1 r c →
    ((s0.setMem []).setIndex 0x300).disp[r][c] = false := by
  rintro r c ⟨k, j, -, -, -, -, h⟩
  simp [State.byte, State.setIndex, State.setMem, Memory.read, Memory.unlisted] at h

/-- DrawTwiceRestoresTheDisplay: the state after the first draw is one the second draw may start in. -/
theorem witness_second_draw :
    let s := (s0.setMem [(0x300, 0xF0)]).setIndex 0x300
    let t := after (.draw 0 1 1) s
    (∀ a, t.byte a = s.byte a) ∧ t.i = s.i ∧ t.cfg = s.cfg ∧ t.reg 0 = s.reg 0 ∧ t.reg 1 = s.reg 1 :=
  ⟨fun _ => rfl, rfl, rfl, by decide, by decide⟩

/-- DrawTwiceRestoresTheDisplay: the clear display. -/
theorem witness_clear_display : ∀ (a : Fin 32) (b : Fin 64), s0.disp[a][b] = false := by
  simp [s0, State.resetWith, Display.clear]

/-- KeySkips: a key that is held, the highest key, and a number no key has. -/
theorem witness_keys : held5.ports.keyHeld[(held5.reg 1).toNat]? = some true ∧
    (with1 1 0xF).ports.keyHeld[((with1 1 0xF).reg 1).toNat]? = some false ∧ 16 ≤ ((with1 1 0x10).reg 1).toNat := by decide

/-- KeySkips: both hypotheses together, for a held key, the highest key and a number no key has. -/
theorem witness_key_levels :
    ((∀ h : (held5.reg 1).toNat < 16, held5.ports.keyHeld[(held5.reg 1).toNat] = true) ∧
      (16 ≤ (held5.reg 1).toNat → true = false)) ∧
    ((∀ h : ((with1 1 0xF).reg 1).toNat < 16, (with1 1 0xF).ports.keyHeld[((with1 1 0xF).reg 1).toNat] = false) ∧
      (16 ≤ ((with1 1 0xF).reg 1).toNat → false = false)) ∧
    ((∀ h : ((with1 1 0x10).reg 1).toNat < 16, (with1 1 0x10).ports.keyHeld[((with1 1 0x10).reg 1).toNat] = false) ∧
      (16 ≤ ((with1 1 0x10).reg 1).toNat → false = false)) := by
  decide

/-- AwaitKeySuspends: a machine that awaits a key. -/
theorem witness_awaiting : (awaiting 3).mode = .awaitingKey 3 := by decide

/-- KeyPressCompletesTheWait: the press goes first. -/
theorem witness_press_goes_first :
    let s := { awaiting 3 with scripted := [{ quiet with keyPress := some 0xB }] }
    s.mode = .awaitingKey 3 ∧ s.ports.keyPress = some 0xB ∧ s.ports.keyFirst = true := by
  decide

/-- KeyPressCompletesTheWait: the sequencer has nothing to do. -/
theorem witness_press_between_frames :
    let s := { awaiting 3 with scripted := [{ quiet with keyPress := some 0xB, keyFirst := false, frameStrobe := false }] }
    s.mode = .awaitingKey 3 ∧ s.ports.keyPress = some 0xB ∧ ¬ s.frameDue := by
  unfold State.frameDue
  decide

/-- KeyPressCompletesTheWait, StepCycle, EmptyFramesOnlyCountDown: a running machine. -/
theorem witness_running : (∀ x, s0.mode ≠ .awaitingKey x) ∧ s0.mode = .running ∧ (∀ f, s0.mode ≠ .faulted f) :=
  ⟨fun _ h => Mode.noConfusion h, rfl, fun _ h => Mode.noConfusion h⟩

/-- TimerTickCountsDown: timers that run and timers that do not while a key is awaited; a faulted machine. -/
theorem witness_timers :
    ((∃ x, (awaiting 0).mode = .awaitingKey x) ∧ (awaiting 0).cfg.timersRunWhileAwaiting = true) ∧
    ((∃ x, { awaiting 0 with cfg := { defaultConfig with timersRunWhileAwaiting := false } }.mode = .awaitingKey x) ∧
      { awaiting 0 with cfg := { defaultConfig with timersRunWhileAwaiting := false } }.cfg.timersRunWhileAwaiting = false) ∧
    (∃ f, (s0.raise .stackOverflow).mode = .faulted f) :=
  ⟨⟨⟨0, rfl⟩, rfl⟩, ⟨⟨0, rfl⟩, rfl⟩, ⟨_, rfl⟩⟩

/-- EmptyFramesOnlyCountDown. -/
theorem witness_empty_frames : noSlots.cfg.stepsPerFrame = 0 ∧ noSlots.mode = .running ∧ noSlots.batchPos = 0 ∧
    noSlots.scripted.length = 1 ∧ (noSlots.scripted.filter Inputs.frameStrobe).length = 1 := by decide

/-- StepCycle: a machine that does not run; an illegal word; a legal word. -/
theorem witness_step_cycle : (awaiting 0).mode ≠ .running ∧
    (s0.mode = .running ∧ canAccess s0 s0.pc 2 ∧
      (0x0000 : Word).toNat = (s0.byte (byteAddr s0.pc 0)).toNat * 256 + (s0.byte (byteAddr s0.pc 1)).toNat ∧
      decodeWord 0x0000 = .error (.unknownOpcode 0x0000)) ∧
    (decodeWord 0x6A55 = .ok (.loadImm 0xA 0x55) ∧ (0x6A55 : Word).toNat =
      ((s0.setMem [(0x200, 0x6A), (0x201, 0x55)]).byte 0x200).toNat * 256 +
        ((s0.setMem [(0x200, 0x6A), (0x201, 0x55)]).byte 0x201).toNat) := by
  unfold canAccess
  decide

/-- StepRunsTheDecodedInstruction: the last slot of the batch, the last word of memory. -/
theorem witness_step_runs :
    let s := ((s0.setMem [(0xFFE, 0x6A), (0xFFF, 0x55)]).setPc 0xFFE).setBatchPos 9
    s.mode = .running ∧ s.frameDue ∧ s.batchPos < s.cfg.stepsPerFrame ∧ canAccess s s.pc 2 ∧
      decodeWord s.fetchWord = .ok (.loadImm 0xA 0x55) :=
  ⟨rfl, Or.inl (by decide), by decide, Or.inr (Or.inr (by decide)), by decide⟩

/-- StepRunsTheDecodedInstruction: a fetch that does not fit, and an illegal word, in the first slot of a frame. -/
theorem witness_step_faults : (s0.setPc 0xFFF).frameDue ∧ ¬ canAccess (s0.setPc 0xFFF) (s0.setPc 0xFFF).pc 2 ∧
    canAccess s0 s0.pc 2 ∧ decodeWord s0.fetchWord = .error (.unknownOpcode 0x0000) := by
  unfold State.frameDue canAccess
  decide

/-- FetchIsBigEndian: the last address with a byte after it. -/
theorem witness_fetch : (s0.setPc 0xFFE).pc.toNat < 0xFFF := by decide

/-- AwaitingSlotsAreUsedUp. -/
theorem witness_awaiting_slot : (awaiting 3).mode = .awaitingKey 3 ∧ (awaiting 3).ports.keyPress = none ∧
    (awaiting 3).frameDue ∧ (awaiting 3).batchPos < (awaiting 3).cfg.stepsPerFrame := by
  unfold State.frameDue
  decide

/-- AwaitingSlotsAreUsedUp: a press is shown and the slot goes first. -/
theorem witness_slot_goes_first :
    let s := { awaiting 3 with scripted := [{ quiet with keyPress := some 0xB, keyFirst := false }] }
    s.mode = .awaitingKey 3 ∧ s.ports.keyFirst = false ∧ s.frameDue ∧ s.batchPos < s.cfg.stepsPerFrame := by
  unfold State.frameDue
  decide

/-- SequencerTakesSlotsThenTicks: a turn between frames; the last slot; the slots used up. -/
theorem witness_sequencer : s0.noPressTaken ∧ (∀ f, s0.mode ≠ .faulted f) ∧
    ¬ { s0 with scripted := [{ quiet with frameStrobe := false }] }.frameDue ∧
    ((s0.setBatchPos 9).frameDue ∧ (s0.setBatchPos 9).batchPos < (s0.setBatchPos 9).cfg.stepsPerFrame) ∧
    ((s0.setBatchPos 10).frameDue ∧ (s0.setBatchPos 10).cfg.stepsPerFrame ≤ (s0.setBatchPos 10).batchPos) := by
  refine ⟨Or.inr (Or.inl rfl), fun _ h => Mode.noConfusion h, ?_⟩
  unfold State.frameDue
  decide

/-- SequencerTakesSlotsThenTicks: a machine that awaits a key whose turn is the sequencer's. -/
theorem witness_sequencer_first :
    { awaiting 3 with scripted := [{ quiet with keyPress := some 0xB, keyFirst := false }] }.noPressTaken :=
  Or.inr (Or.inr ⟨rfl, Or.inr rfl⟩)

/-- AwaitingFrameTicksOnce: a frame of ten slots asked for, and eleven turns without a key. -/
theorem witness_awaiting_frame :
    let s := { awaiting 3 with scripted := List.replicate 11 quiet }
    s.mode = .awaitingKey 3 ∧ s.batchPos = 0 ∧ s.ports.frameStrobe = true ∧
      s.scripted.length = s.cfg.stepsPerFrame + 1 ∧ (∀ p ∈ s.scripted, p.keyPress = none) := by
  decide

/-- FaultedForever. -/
theorem witness_faulted : (s0.raise (.programTooLarge 3585)).mode = .faulted (.programTooLarge 3585) := by decide

/-- SequencerBookkeeping: each kind of event, and none. -/
theorem witness_events : (s0.raise .stackOverflow).nextEvent = none ∧ s0.nextEvent = some .step ∧
    (s0.setBatchPos 10).nextEvent = some .timerTick ∧
    { awaiting 3 with scripted := [{ quiet with keyPress := some 0xB }] }.nextEvent = some (.keyPress 0xB) := by decide

/-- SequencerBookkeeping and the invariants: a step answers a next state. -/
theorem witness_step_answers : ∃ t, step s0 = .next t := ⟨_, rfl⟩

/-- FaultsArePrecise: an instruction that faults at a state that has not faulted. -/
theorem witness_precise_fault : (∀ g, s0.mode ≠ .faulted g) ∧ exec .ret s0 = .next (after .ret s0) ∧
    (after .ret s0).mode = .faulted .stackUnderflow :=
  ⟨fun _ h => Mode.noConfusion h, rfl, by decide⟩

/-- The whole-machine frames: an instruction answers a next state. -/
theorem witness_frame : exec (.storeBcd 1) (s0.setIndex 0xFFD) = .next (after (.storeBcd 1) (s0.setIndex 0xFFD)) := rfl

/-- OtherInstructionsReadNoInput. -/
theorem witness_reads_no_input : (∀ x kk, Instr.ret ≠ .rand x kk) ∧ (∀ x, Instr.ret ≠ .skipKeyPressed x) ∧
    (∀ x, Instr.ret ≠ .skipKeyNotPressed x) :=
  ⟨fun _ _ h => Instr.noConfusion h, fun _ h => Instr.noConfusion h, fun _ h => Instr.noConfusion h⟩

/-- DecodeEncodeRoundTrip, EncodeDecodeClearsDontCares: operands at their largest values. -/
theorem witness_encoding : (Instr.draw 0xF 0xF 0xF).wellFormed = true ∧
    decodeWord 0x5FFF = .ok (.skipEqReg 0xF 0xF 0xF) := by decide

/-- CanonicalMemoriesAreEqual: a memory in canonical form, equal to itself everywhere. -/
theorem witness_canonical : Memory.wf [(0, 1), (0xFFF, 2)] = true ∧
    (∀ a, Memory.read [(0, 1), (0xFFF, 2)] a = Memory.read [(0, 1), (0xFFF, 2)] a) := ⟨by decide, fun _ => rfl⟩

/-- StoreIsSeenByTheNextFetch. -/
theorem witness_store_at_pc : canAccess (s0.setPc 0xFFE) (s0.setPc 0xFFE).pc 2 := Or.inr (Or.inr (by decide))

/-- BootLaysOutMemory: an image that just fits, its last byte, and the addresses around the font and the image. -/
theorem witness_image_fits : (List.replicate 3584 (0x12 : Byte)).length ≤ 3584 ∧
    3583 < (List.replicate 3584 (0x12 : Byte)).length ∧ 80 ≤ 0x1FF ∧ 0x1FF < 0x200 ∧
    0x200 + (List.replicate 3584 (0x12 : Byte)).length ≤ 0x1000 := by
  simp only [List.length_replicate]
  omega

/-- OversizedImageStopsTheMachine: one byte too many. -/
theorem witness_image_too_large : 3584 < (List.replicate 3585 (0x12 : Byte)).length := by
  simp only [List.length_replicate]
  omega

/-- PlacedWordIsRunNext. -/
theorem witness_placed_word : decodeWord 0x00EE = .ok .ret ∧ canAccess s0 s0.pc 2 :=
  ⟨by decide, Or.inr (Or.inr (by decide))⟩

/-- StepKeepsTheInvariant: memory with cells, a full stack, a used-up batch. -/
theorem witness_invariant :
    (((s0.setMem [(0x200, 0x12), (0xFFF, 1)]).setStack (List.replicate 16 0x202)).setBatchPos 10).Inv :=
  ⟨by decide, Nat.le_refl 16, by decide⟩

/-- StepKeepsThePcBelowItsBound: the largest values it allows. -/
theorem witness_pc_invariant : s0.cfg.oobPolicy = .fault ∧ ((s0.setPc 0x10FE).setStack [0x1000]).PcInv :=
  ⟨rfl, by decide, by simp [State.setStack]⟩

end Sys2Proof.Tests
end

section
/-! PROOF. The skips on an immediate (40_control_flow.md R85, R86): their words, the program counter after a skip, and the
frame of a skip. -/

namespace Sys2Proof

/-- A word with the value of format `XKK` is the packed word of its fields, so facts about packed words apply to it. -/
theorem eq_packXKK_of_toNat (w : Word) (op : Nat) (x : Reg) (kk : Byte) (hop : op < 16)
    (hw : w.toNat = op * 0x1000 + x.val * 0x100 + kk.toNat) : w = packXKK op x kk.toNat :=
  BitVec.eq_of_toNat_eq (hw.trans (packXKK_toNat_byte op x kk hop).symm)

theorem decodeWord_packXKK_three (x : Reg) (kk : Byte) :
    decodeWord (packXKK 0x3 x kk.toNat) = .ok (.skipEqImm x kk) := by
  simp [decodeWord]

theorem decodeWord_packXKK_four (x : Reg) (kk : Byte) :
    decodeWord (packXKK 0x4 x kk.toNat) = .ok (.skipNeImm x kk) := by
  simp [decodeWord]

end Sys2Proof

namespace Sys2Proof.Machine

theorem exec_skipEqImm (x : Reg) (kk : Byte) (s : State) :
    exec (.skipEqImm x kk) s = .next (s.skipIf (s.reg x == kk)) := rfl

theorem exec_skipNeImm (x : Reg) (kk : Byte) (s : State) :
    exec (.skipNeImm x kk) s = .next (s.skipIf (s.reg x != kk)) := rfl

theorem skipIf_pc_toNat (s : State) (c : Bool) :
    (s.skipIf c).pc.toNat = if c then (s.pc.toNat + 2) % 65536 else s.pc.toNat := by
  cases c <;> simp

/-- A skip writes `PC` and nothing else, whether or not its condition holds. -/
theorem skipIf_frame (s : State) (c : Bool) : Frame [.pc] s (s.skipIf c) := by
  intro p hp
  cases p with
  | pc => simp at hp
  | _ => simp [Piece.same, reg_def, State.byte]

/-- Settles O12: the words by the fields of a packed word, the effects by what `skipIf` does to `PC` and leaves alone. -/
theorem immediateSkips : Obligations.ImmediateSkips := by
  intro x kk
  refine ⟨fun w hw => ?_, fun w hw => ?_, fun s => ?_, fun s => ?_⟩
  · rw [eq_packXKK_of_toNat w 0x3 x kk (by decide) hw, decodeWord_packXKK_three]
  · rw [eq_packXKK_of_toNat w 0x4 x kk (by decide) hw, decodeWord_packXKK_four]
  · refine ⟨_, exec_skipEqImm x kk s, ?_, skipIf_frame s _⟩
    rw [skipIf_pc_toNat]
    simp
  · refine ⟨_, exec_skipNeImm x kk s, ?_, skipIf_frame s _⟩
    rw [skipIf_pc_toNat]
    simp

end Sys2Proof.Machine
end

section
/-! PROOF. The two instructions with an immediate that write one register (41_alu.md R101, R102): their words, what they
write, and the frame of a single register write. -/

namespace Sys2Proof

theorem decodeWord_packXKK_six (x : Reg) (kk : Byte) :
    decodeWord (packXKK 0x6 x kk.toNat) = .ok (.loadImm x kk) := by
  simp [decodeWord]

theorem decodeWord_packXKK_seven (x : Reg) (kk : Byte) :
    decodeWord (packXKK 0x7 x kk.toNat) = .ok (.addImm x kk) := by
  simp [decodeWord]

end Sys2Proof

namespace Sys2Proof.Machine

theorem exec_loadImm (x : Reg) (kk : Byte) (s : State) : exec (.loadImm x kk) s = .next (s.setReg x kk) := rfl

theorem exec_addImm (x : Reg) (kk : Byte) (s : State) :
    exec (.addImm x kk) s = .next (s.setReg x (s.reg x + kk)) := rfl

/-- No register but the one written changes: a register write has no side effect on VF (10_state.md R11, R12). -/
theorem setReg_sameRegsBut (s : State) (x : Reg) (b : Byte) : sameRegsBut [x] s (s.setReg x b) :=
  fun j hj => setReg_reg_other s x j b (List.ne_of_not_mem_cons hj)

/-- A register write leaves every piece of state but the registers alone. -/
theorem setReg_frame (s : State) (x : Reg) (b : Byte) : Frame [.regs] s (s.setReg x b) := by
  intro p hp
  cases p with
  | regs => simp at hp
  | _ => simp [Piece.same, State.byte]

/-- Settles O1: the word by the fields of a packed word, the effect by what one register write does and leaves alone. -/
theorem loadImmWritesTheImmediate : Obligations.LoadImmWritesTheImmediate := by
  intro x kk
  refine ⟨fun w hw => ?_, fun s => ?_⟩
  · rw [eq_packXKK_of_toNat w 0x6 x kk (by decide) hw, decodeWord_packXKK_six]
  · exact ⟨_, exec_loadImm x kk s, setReg_reg_same s x kk, setReg_sameRegsBut s x kk, setReg_frame s x kk⟩

/-- Settles O2: as for load-imm; the sum of two bytes is taken modulo 256, and no second write follows it. -/
theorem addImmWrapsAndTouchesNoFlag : Obligations.AddImmWrapsAndTouchesNoFlag := by
  intro x kk
  refine ⟨fun w hw => ?_, fun s => ?_⟩
  · rw [eq_packXKK_of_toNat w 0x7 x kk (by decide) hw, decodeWord_packXKK_seven]
  · refine ⟨_, exec_addImm x kk s, ?_, setReg_sameRegsBut s x _, setReg_frame s x _⟩
    rw [setReg_reg_same, BitVec.toNat_add]

end Sys2Proof.Machine
end

section
/-! PROOF. load-index (42_index_memory.md R120): its word, the zero-extended address it puts in `I`, and the frame of an
index write. -/

namespace Sys2Proof

/-- A word with the value of format `NNN` is the packed word of its address, so facts about packed words apply to it. -/
theorem eq_packNNN_of_toNat (w : Word) (op : Nat) (nnn : BitVec 12) (hop : op < 16)
    (hw : w.toNat = op * 0x1000 + nnn.toNat) : w = packNNN op nnn :=
  BitVec.eq_of_toNat_eq (hw.trans (packNNN_toNat op nnn hop).symm)

theorem decodeWord_packNNN_ten (nnn : BitVec 12) : decodeWord (packNNN 0xA nnn) = .ok (.loadIndex nnn) := by
  simp [decodeWord]

end Sys2Proof

namespace Sys2Proof.Machine

theorem exec_loadIndex (nnn : BitVec 12) (s : State) :
    exec (.loadIndex nnn) s = .next (s.setIndex (zextAddr nnn)) := rfl

/-- Zero-extension keeps the value of an address (30_encoding.md R63). -/
theorem zextAddr_toNat (nnn : BitVec 12) : (zextAddr nnn).toNat = nnn.toNat :=
  BitVec.toNat_setWidth_of_le (by decide)

/-- An index write leaves every piece of state but `I` alone. -/
theorem setIndex_frame (s : State) (w : Word) : Frame [.index] s (s.setIndex w) := by
  intro p hp
  cases p with
  | index => simp at hp
  | _ => simp [Piece.same, reg_def, State.byte]

/-- Settles O15: the word by the fields of a packed word, the effect by what one index write does and leaves alone. -/
theorem loadIndexSetsI : Obligations.LoadIndexSetsI := by
  intro nnn
  refine ⟨fun w hw => ?_, fun s => ?_⟩
  · rw [eq_packNNN_of_toNat w 0xA nnn (by decide) hw, decodeWord_packNNN_ten]
  · refine ⟨_, exec_loadIndex nnn s, ?_, setIndex_frame s _⟩
    rw [setIndex_i, zextAddr_toNat]

end Sys2Proof.Machine
end

section
/-! PROOF. clear-display (43_display.md R141): its word, the cells of the clear display, and the frame of a display
write. -/

namespace Sys2Proof

theorem decodeWord_clearDisplay : decodeWord 0x00E0 = .ok .clearDisplay := by
  decide

end Sys2Proof

namespace Sys2Proof.Machine

theorem exec_clearDisplay (s : State) : exec .clearDisplay s = .next (s.setDisp Display.clear) := rfl

/-- Every cell of the clear display is off. -/
@[simp] theorem Display.clear_cell (r : Fin 32) (c : Fin 64) : Display.clear[r][c] = false := by
  simp [Display.clear]

/-- A display write leaves every piece of state but the display alone. -/
theorem setDisp_frame (s : State) (d : Display) : Frame [.display] s (s.setDisp d) := by
  intro p hp
  cases p with
  | display => simp at hp
  | _ => simp [Piece.same, reg_def, State.byte]

/-- Settles O22: the word is one decoder case, the effect is what one display write does and leaves alone. -/
theorem clearDisplayTurnsAllOff : Obligations.ClearDisplayTurnsAllOff := by
  refine ⟨decodeWord_clearDisplay, fun s => ⟨_, exec_clearDisplay s, fun r c => ?_, setDisp_frame s _⟩⟩
  rw [setDisp_disp, Display.clear_cell]

end Sys2Proof.Machine
end

section
/-! PROOF. Decode and encode (30_encoding.md R60 to R73): each decode rule at a packed word, and a word rebuilt from its
fields. -/

namespace Sys2Proof

/-! ## The second decode level at a packed word (R67 to R69) -/

theorem decodeWord_packXYN_eight (x y : Reg) (n : Nat) (hn : n < 16) :
    decodeWord (packXYN 0x8 x y n) = decodeFamily8 (packXYN 0x8 x y n) := by
  simp [decodeWord, hn]

theorem decodeWord_packXKK_fourteen (x : Reg) (kk : Nat) (hk : kk < 256) :
    decodeWord (packXKK 0xE x kk) = decodeFamilyE (packXKK 0xE x kk) := by
  simp [decodeWord, hk]

theorem decodeWord_packXKK_fifteen (x : Reg) (kk : Nat) (hk : kk < 256) :
    decodeWord (packXKK 0xF x kk) = decodeFamilyF (packXKK 0xF x kk) := by
  simp [decodeWord, hk]

/-- Settles O43: one case per instruction. The fields of a packed word are its operands, so the decoder's rule for the
operation (and, in three families, for the low bits) is the one that matches. A well-formed instruction's don't-care
field is the 0 the encoder writes. -/
theorem decodeEncodeRoundTrip : Obligations.DecodeEncodeRoundTrip := by
  intro i hwf
  cases i with
  | clearDisplay => exact decodeWord_clearDisplay
  | ret => simp [encode, decodeWord, decodeFamily0, fieldOp]
  | loadIndex nnn => exact decodeWord_packNNN_ten nnn
  | jump nnn | call nnn | jumpPlusV0 nnn => simp [encode, decodeWord]
  | skipEqImm x kk => exact decodeWord_packXKK_three x kk
  | skipNeImm x kk => exact decodeWord_packXKK_four x kk
  | loadImm x kk => exact decodeWord_packXKK_six x kk
  | addImm x kk => exact decodeWord_packXKK_seven x kk
  | rand x kk => simp [encode, decodeWord]
  | draw x y n => simp [encode, decodeWord, fieldN]
  | skipEqReg x y low | skipNeReg x y low =>
    obtain rfl : low = 0 := by simpa [Instr.wellFormed] using hwf
    simp [encode, decodeWord]
  | shr x y | shl x y =>
    obtain rfl : y = 0 := by simpa [Instr.wellFormed] using hwf
    simp [encode, decodeWord_packXYN_eight, decodeFamily8]
  | regMove x y | orReg x y | andReg x y | xorReg x y | addReg x y | subReg x y | subnReg x y =>
    simp [encode, decodeWord_packXYN_eight, decodeFamily8]
  | skipKeyPressed x | skipKeyNotPressed x => simp [encode, decodeWord_packXKK_fourteen, decodeFamilyE]
  | loadDelay x | awaitKey x | storeDelay x | storeSound x | addIndex x | loadFontAddr x | storeBcd x | storeRegs x
  | loadRegs x => simp [encode, decodeWord_packXKK_fifteen, decodeFamilyF]

/-! ## A word is the packed word of its fields (R61, R62) -/

theorem packNNN_fields (w : Word) (op : Nat) (h : op < 16) (hop : fieldOp w = BitVec.ofNat 4 op) :
    packNNN op (fieldNNN w) = w := by
  apply BitVec.eq_of_toNat_eq
  rw [fieldOp_eq_iff, BitVec.toNat_ofNat] at hop
  rw [packNNN_toNat _ _ h, fieldNNN_toNat]
  omega

theorem packXKK_fields (w : Word) (op kk : Nat) (h : op < 16) (hk : kk < 256) (hop : fieldOp w = BitVec.ofNat 4 op)
    (hkk : fieldKK w = BitVec.ofNat 8 kk) : packXKK op (fieldX w) kk = w := by
  apply BitVec.eq_of_toNat_eq
  rw [fieldOp_eq_iff, BitVec.toNat_ofNat] at hop
  rw [fieldKK_eq_iff, BitVec.toNat_ofNat] at hkk
  rw [packXKK_toNat _ _ _ h hk, fieldX_val]
  omega

theorem packXKK_fields_byte (w : Word) (op : Nat) (h : op < 16) (hop : fieldOp w = BitVec.ofNat 4 op) :
    packXKK op (fieldX w) (fieldKK w).toNat = w :=
  packXKK_fields w op _ h (fieldKK w).isLt hop (by simp)

theorem packXYN_fields (w : Word) (op n : Nat) (h : op < 16) (hn : n < 16) (hop : fieldOp w = BitVec.ofNat 4 op)
    (hlow : fieldLow w = BitVec.ofNat 4 n) : packXYN op (fieldX w) (fieldY w) n = w := by
  apply BitVec.eq_of_toNat_eq
  rw [fieldOp_eq_iff, BitVec.toNat_ofNat] at hop
  rw [fieldLow_eq_iff, BitVec.toNat_ofNat] at hlow
  rw [packXYN_toNat _ _ _ _ h hn, fieldX_val, fieldY_val]
  omega

/-- A mask with the whole of a nibble set leaves that nibble alone. -/
theorem extract_nibble_mask (w m : Word) (k : Nat) (hm : m.extractLsb' k 4 = 0xF#4) :
    (w &&& m).extractLsb' k 4 = w.extractLsb' k 4 := by
  rw [BitVec.extractLsb'_and, hm]
  exact BitVec.and_allOnes

/-- Clearing bits 3-0 (families 0x5 and 0x9) leaves the other fields alone. -/
theorem packXYN_clear_low (w : Word) (op : Nat) (h : op < 16) (hop : fieldOp w = BitVec.ofNat 4 op) :
    packXYN op (fieldX w) (fieldY w) 0x0 = w &&& 0xFFF0#16 := by
  have hx : fieldX (w &&& 0xFFF0#16) = fieldX w := congrArg BitVec.toFin (extract_nibble_mask w _ 8 (by decide))
  have hy : fieldY (w &&& 0xFFF0#16) = fieldY w := congrArg BitVec.toFin (extract_nibble_mask w _ 4 (by decide))
  have hlow : fieldLow (w &&& 0xFFF0#16) = 0x0#4 := by simp [fieldLow, BitVec.extractLsb'_and]
  rw [← hx, ← hy]
  exact packXYN_fields _ op 0x0 h (by decide) ((extract_nibble_mask w _ 12 (by decide)).trans hop) hlow

/-- Clearing bits 7-4 (shr and shl) leaves the other fields alone. -/
theorem packXYN_clear_y (w : Word) (op n : Nat) (h : op < 16) (hn : n < 16) (hop : fieldOp w = BitVec.ofNat 4 op)
    (hlow : fieldLow w = BitVec.ofNat 4 n) : packXYN op (fieldX w) 0 n = w &&& 0xFF0F#16 := by
  have hx : fieldX (w &&& 0xFF0F#16) = fieldX w := congrArg BitVec.toFin (extract_nibble_mask w _ 8 (by decide))
  have hy : fieldY (w &&& 0xFF0F#16) = 0 := by simp [fieldY, BitVec.extractLsb'_and]
  rw [← hx, ← hy]
  exact packXYN_fields _ op n h hn ((extract_nibble_mask w _ 12 (by decide)).trans hop)
    ((extract_nibble_mask w _ 0 (by decide)).trans hlow)

/-! ## What a decoded word is encoded to, family by family (R66 to R69) -/

theorem encode_decodeFamily0 (w : Word) (i : Instr) (h : decodeFamily0 w = .ok i) : encode i = w := by
  unfold decodeFamily0 at h
  split_ifs at h with hw hw' <;> cases h
  · exact hw.symm
  · exact hw'.symm

theorem encode_decodeFamily8 (w : Word) (i : Instr) (hop : fieldOp w = 0x8#4) (h : decodeFamily8 w = .ok i) :
    encode i = clearDontCare w := by
  simp only [decodeFamily8, decode_rule_iff, Except.ok.injEq, reduceCtorEq, and_false, or_false] at h
  obtain ⟨h0, rfl⟩ | ⟨-, ⟨h1, rfl⟩ | ⟨-, ⟨h2, rfl⟩ | ⟨-, ⟨h3, rfl⟩ | ⟨-, ⟨h4, rfl⟩ |
    ⟨-, ⟨h5, rfl⟩ | ⟨-, ⟨h6, rfl⟩ | ⟨-, ⟨h7, rfl⟩ | ⟨-, ⟨hE, rfl⟩⟩⟩⟩⟩⟩⟩⟩⟩ := h
  · simp [encode, clearDontCare, packXYN_fields, hop, h0]
  · simp [encode, clearDontCare, packXYN_fields, hop, h1]
  · simp [encode, clearDontCare, packXYN_fields, hop, h2]
  · simp [encode, clearDontCare, packXYN_fields, hop, h3]
  · simp [encode, clearDontCare, packXYN_fields, hop, h4]
  · simp [encode, clearDontCare, packXYN_fields, hop, h5]
  · simp [encode, clearDontCare, packXYN_clear_y, hop, h6]
  · simp [encode, clearDontCare, packXYN_fields, hop, h7]
  · simp [encode, clearDontCare, packXYN_clear_y, hop, hE]

theorem encode_decodeFamilyE (w : Word) (i : Instr) (hop : fieldOp w = 0xE#4) (h : decodeFamilyE w = .ok i) :
    encode i = w := by
  unfold decodeFamilyE at h
  split_ifs at h with h9E hA1 <;> cases h
  · exact packXKK_fields w 0xE 0x9E (by decide) (by decide) hop h9E
  · exact packXKK_fields w 0xE 0xA1 (by decide) (by decide) hop hA1

theorem encode_decodeFamilyF (w : Word) (i : Instr) (hop : fieldOp w = 0xF#4) (h : decodeFamilyF w = .ok i) :
    encode i = w := by
  have hw : ∀ kk : Nat, kk < 256 → fieldKK w = BitVec.ofNat 8 kk → packXKK 0xF (fieldX w) kk = w :=
    fun kk hk => packXKK_fields w 0xF kk (by decide) hk hop
  simp only [decodeFamilyF, decode_rule_iff, Except.ok.injEq, reduceCtorEq, and_false, or_false] at h
  obtain ⟨h07, rfl⟩ | ⟨-, ⟨h0A, rfl⟩ | ⟨-, ⟨h15, rfl⟩ | ⟨-, ⟨h18, rfl⟩ | ⟨-, ⟨h1E, rfl⟩ |
    ⟨-, ⟨h29, rfl⟩ | ⟨-, ⟨h33, rfl⟩ | ⟨-, ⟨h55, rfl⟩ | ⟨-, ⟨h65, rfl⟩⟩⟩⟩⟩⟩⟩⟩⟩ := h
  · exact hw 0x07 (by decide) h07
  · exact hw 0x0A (by decide) h0A
  · exact hw 0x15 (by decide) h15
  · exact hw 0x18 (by decide) h18
  · exact hw 0x1E (by decide) h1E
  · exact hw 0x29 (by decide) h29
  · exact hw 0x33 (by decide) h33
  · exact hw 0x55 (by decide) h55
  · exact hw 0x65 (by decide) h65

/-- Outside families 0x5, 0x8 and 0x9 no bit is a don't-care bit (R70, R72). -/
theorem clearDontCare_of_op (w : Word) (h5 : fieldOp w ≠ 0x5#4) (h8 : fieldOp w ≠ 0x8#4) (h9 : fieldOp w ≠ 0x9#4) :
    clearDontCare w = w := by
  simp [clearDontCare, h5, h8, h9]

/-- The top nibble takes one of 16 values: the first decode level (R65). -/
theorem fieldOp_cases (w : Word) : fieldOp w = 0x0#4 ∨ fieldOp w = 0x1#4 ∨ fieldOp w = 0x2#4 ∨ fieldOp w = 0x3#4 ∨
    fieldOp w = 0x4#4 ∨ fieldOp w = 0x5#4 ∨ fieldOp w = 0x6#4 ∨ fieldOp w = 0x7#4 ∨ fieldOp w = 0x8#4 ∨
    fieldOp w = 0x9#4 ∨ fieldOp w = 0xA#4 ∨ fieldOp w = 0xB#4 ∨ fieldOp w = 0xC#4 ∨ fieldOp w = 0xD#4 ∨
    fieldOp w = 0xE#4 ∨ fieldOp w = 0xF#4 := by
  generalize fieldOp w = op
  revert op
  decide

/-- Settles O44: by the first level (one case per top nibble), then by the second level's lemma of the family. What the
decoder reads are the word's fields, and packing them again gives the word, but for the bits the encoder clears. -/
theorem encodeDecodeClearsDontCares : Obligations.EncodeDecodeClearsDontCares := by
  intro w i h
  obtain h0 | h1 | h2 | h3 | h4 | h5 | h6 | h7 | h8 | h9 | hA | hB | hC | hD | hE | hF := fieldOp_cases w
  · rw [clearDontCare_of_op w (by simp [h0]) (by simp [h0]) (by simp [h0])]
    exact encode_decodeFamily0 w i (by simpa [decodeWord, h0] using h)
  · obtain rfl : .jump (fieldNNN w) = i := by simpa [decodeWord, h1] using h
    simp [encode, clearDontCare, packNNN_fields, h1]
  · obtain rfl : .call (fieldNNN w) = i := by simpa [decodeWord, h2] using h
    simp [encode, clearDontCare, packNNN_fields, h2]
  · obtain rfl : .skipEqImm (fieldX w) (fieldKK w) = i := by simpa [decodeWord, h3] using h
    simp [encode, clearDontCare, packXKK_fields_byte, h3]
  · obtain rfl : .skipNeImm (fieldX w) (fieldKK w) = i := by simpa [decodeWord, h4] using h
    simp [encode, clearDontCare, packXKK_fields_byte, h4]
  · obtain rfl : .skipEqReg (fieldX w) (fieldY w) (fieldLow w) = i := by simpa [decodeWord, h5] using h
    simp [encode, clearDontCare, packXYN_clear_low, h5]
  · obtain rfl : .loadImm (fieldX w) (fieldKK w) = i := by simpa [decodeWord, h6] using h
    simp [encode, clearDontCare, packXKK_fields_byte, h6]
  · obtain rfl : .addImm (fieldX w) (fieldKK w) = i := by simpa [decodeWord, h7] using h
    simp [encode, clearDontCare, packXKK_fields_byte, h7]
  · exact encode_decodeFamily8 w i h8 (by simpa [decodeWord, h8] using h)
  · obtain rfl : .skipNeReg (fieldX w) (fieldY w) (fieldLow w) = i := by simpa [decodeWord, h9] using h
    simp [encode, clearDontCare, packXYN_clear_low, h9]
  · obtain rfl : .loadIndex (fieldNNN w) = i := by simpa [decodeWord, hA] using h
    simp [encode, clearDontCare, packNNN_fields, hA]
  · obtain rfl : .jumpPlusV0 (fieldNNN w) = i := by simpa [decodeWord, hB] using h
    simp [encode, clearDontCare, packNNN_fields, hB]
  · obtain rfl : .rand (fieldX w) (fieldKK w) = i := by simpa [decodeWord, hC] using h
    simp [encode, clearDontCare, packXKK_fields_byte, hC]
  · obtain rfl : .draw (fieldX w) (fieldY w) (fieldN w) = i := by simpa [decodeWord, hD] using h
    rw [clearDontCare_of_op w (by simp [hD]) (by simp [hD]) (by simp [hD])]
    exact packXYN_fields w 0xD (fieldLow w).toNat (by decide) (fieldLow w).isLt hD (by simp)
  · rw [clearDontCare_of_op w (by simp [hE]) (by simp [hE]) (by simp [hE])]
    exact encode_decodeFamilyE w i hE (by simpa [decodeWord, hE] using h)
  · rw [clearDontCare_of_op w (by simp [hF]) (by simp [hF]) (by simp [hF])]
    exact encode_decodeFamilyF w i hF (by simpa [decodeWord, hF] using h)

/-! ## The words no rule matches (R71) -/

theorem decodeFamily0_error_iff (w : Word) (e : DecodeError) : decodeFamily0 w = .error e ↔
    e = .unknownOpcode w ∧ w.toNat ≠ 0x00E0 ∧ w.toNat ≠ 0x00EE := by
  simp only [decodeFamily0, decode_rule_iff, BitVec.toNat_eq]
  simp [eq_comm (a := e), and_comm, and_assoc]

theorem decodeFamily8_error_iff (w : Word) (e : DecodeError) : decodeFamily8 w = .error e ↔
    e = .unknownOpcode w ∧ 8 ≤ w.toNat % 16 ∧ w.toNat % 16 ≠ 0xE := by
  simp only [decodeFamily8, decode_rule_iff, fieldLow_eq_iff]
  by_cases he : e = .unknownOpcode w
  · simp [he]
    omega
  · simp [he, Ne.symm he]

theorem decodeFamilyE_error_iff (w : Word) (e : DecodeError) : decodeFamilyE w = .error e ↔
    e = .unknownOpcode w ∧ w.toNat % 256 ≠ 0x9E ∧ w.toNat % 256 ≠ 0xA1 := by
  simp only [decodeFamilyE, decode_rule_iff, fieldKK_eq_iff]
  simp [eq_comm (a := e), and_comm, and_assoc]

theorem decodeFamilyF_error_iff (w : Word) (e : DecodeError) : decodeFamilyF w = .error e ↔
    e = .unknownOpcode w ∧ w.toNat % 256 ∉ [0x07, 0x0A, 0x15, 0x18, 0x1E, 0x29, 0x33, 0x55, 0x65] := by
  simp only [decodeFamilyF, decode_rule_iff, fieldKK_eq_iff]
  simp [eq_comm (a := e), and_comm, and_assoc]

/-- Settles O45: by the first level (one case per top nibble). Twelve families accept every word; the four others fail
exactly where their second level does, which their own lemmas say. -/
theorem illegalWordsExactly : Obligations.IllegalWordsExactly := by
  intro w e
  rw [← fieldOp_toNat]
  obtain h | h | h | h | h | h | h | h | h | h | h | h | h | h | h | h := fieldOp_cases w <;>
    simp [decodeWord, h, decodeFamily0_error_iff, decodeFamily8_error_iff, decodeFamilyE_error_iff,
      decodeFamilyF_error_iff]

/-- Settles O46: ten closed words, each decided by the decoder. -/
theorem sampleWordsDecode : Obligations.SampleWordsDecode := by
  unfold Obligations.SampleWordsDecode
  decide

end Sys2Proof
end

section
/-! PROOF. The rules of frames: how frames compose, and the frame of each update of one piece of state and of each
shared operation. -/

namespace Sys2Proof.Machine

/-! ## Composing frames -/

theorem Piece.same_refl (s : State) (p : Piece) : p.same s s := by
  cases p <;> simp [Piece.same]

theorem Piece.same_trans {s t u : State} {p : Piece} (h : p.same s t) (h' : p.same t u) : p.same s u := by
  cases p <;> simp_all [Piece.same]

theorem Frame.refl (l : List Piece) (s : State) : Frame l s s := fun p _ => p.same_refl s

theorem Frame.trans {l : List Piece} {s t u : State} (h : Frame l s t) (h' : Frame l t u) : Frame l s u :=
  fun p hp => Piece.same_trans (h p hp) (h' p hp)

theorem Frame.mono {l m : List Piece} {s t : State} (hlm : l ⊆ m) (h : Frame l s t) : Frame m s t :=
  fun p hp => h p (fun hl => hp (hlm hl))

/-- One more update after a framed change: the update's own frame is part of the whole one. -/
theorem Frame.andThen {l m : List Piece} {s t u : State} (h : Frame m s t) (h' : Frame l t u) (hlm : l ⊆ m) :
    Frame m s u :=
  h.trans (h'.mono hlm)

/-- Where the registers are framed, no register changes, whichever list is asked for. -/
theorem Frame.sameRegsBut {l : List Piece} {s t : State} (h : Frame l s t) (hl : Piece.regs ∉ l) (m : List Reg) :
    sameRegsBut m s t := fun j _ => h .regs hl j

/-! ## One update per piece -/

/-- Writing all of `V` leaves every other piece alone. -/
theorem setRegs_frame (s : State) (v : Vector Byte 16) : Frame [.regs] s (s.setRegs v) := by
  intro p hp
  cases p with
  | regs => simp at hp
  | _ => simp [Piece.same, State.byte]

/-- Writing `PC` leaves every other piece alone. -/
theorem setPc_frame (s : State) (w : Word) : Frame [.pc] s (s.setPc w) := by
  intro p hp
  cases p with
  | pc => simp at hp
  | _ => simp [Piece.same, reg_def, State.byte]

/-- Writing the stack leaves every other piece alone. -/
theorem setStack_frame (s : State) (l : List Word) : Frame [.stack] s (s.setStack l) := by
  intro p hp
  cases p with
  | stack => simp at hp
  | _ => simp [Piece.same, reg_def, State.byte]

/-- Writing `DT` leaves every other piece alone. -/
theorem setDelay_frame (s : State) (b : Byte) : Frame [.delay] s (s.setDelay b) := by
  intro p hp
  cases p with
  | delay => simp at hp
  | _ => simp [Piece.same, reg_def, State.byte]

/-- Writing `ST` leaves every other piece alone. -/
theorem setSound_frame (s : State) (b : Byte) : Frame [.sound] s (s.setSound b) := by
  intro p hp
  cases p with
  | sound => simp at hp
  | _ => simp [Piece.same, reg_def, State.byte]

/-- Writing `TONE` leaves every other piece alone. -/
theorem setTone_frame (s : State) (b : Bool) : Frame [.tone] s (s.setTone b) := by
  intro p hp
  cases p with
  | tone => simp at hp
  | _ => simp [Piece.same, reg_def, State.byte]

/-- Writing the mode leaves every other piece alone. -/
theorem setMode_frame (s : State) (m : Mode) : Frame [.mode] s (s.setMode m) := by
  intro p hp
  cases p with
  | mode => simp at hp
  | _ => simp [Piece.same, reg_def, State.byte]

/-- Writing the batch position leaves every other piece alone. -/
theorem setBatchPos_frame (s : State) (n : Nat) : Frame [.sequencer] s (s.setBatchPos n) := by
  intro p hp
  cases p with
  | sequencer => simp at hp
  | _ => simp [Piece.same, reg_def, State.byte]

/-- Driving the paint output leaves every other piece alone. -/
theorem setPaint_frame (s : State) (b : Bool) : Frame [.sequencer] s (s.setPaint b) := by
  intro p hp
  cases p with
  | sequencer => simp at hp
  | _ => simp [Piece.same, reg_def, State.byte]

/-- Writing memory leaves every other piece alone. -/
theorem setMem_frame (s : State) (m : Memory) : Frame [.memory] s (s.setMem m) := by
  intro p hp
  cases p with
  | memory => simp at hp
  | _ => simp [Piece.same, reg_def]

/-- The next sample of the inputs leaves every piece of the block alone. -/
theorem sampleInputs_frame (s : State) : Frame [.inputs] s (s.sampleInputs) := by
  intro p hp
  cases p with
  | inputs => simp at hp
  | _ => simp [Piece.same, reg_def, State.byte]

/-! ## Shared operations -/

/-- Fault entry changes the mode and nothing else (60_exceptions.md R173, decision D11). -/
theorem raise_frame (s : State) (f : Fault) : Frame [.mode] s (s.raise f) := setMode_frame s _

theorem advancePc_frame (s : State) : Frame [.pc] s s.advancePc := setPc_frame s _

theorem takeSlot_frame (s : State) : Frame [.sequencer] s s.takeSlot :=
  (setBatchPos_frame s _).trans (setPaint_frame _ _)

theorem endBatch_frame (s : State) : Frame [.sequencer] s s.endBatch :=
  (setBatchPos_frame s _).trans (setPaint_frame _ _)

theorem loadRegsFrom_frame (s : State) (b : List Byte) : Frame [.regs] s (s.loadRegsFrom b) := setRegs_frame s _

theorem writeFlagThenResult_frame (s : State) (x : Reg) (flag result : Byte) :
    Frame [.regs] s (s.writeFlagThenResult x flag result) :=
  (setReg_frame s _ _).trans (setReg_frame _ _ _)

theorem writeFlagThenResult_sameRegsBut (s : State) (x : Reg) (flag result : Byte) :
    sameRegsBut [x, 0xF] s (s.writeFlagThenResult x flag result) := by
  intro j hj
  obtain ⟨hx, hF⟩ : j ≠ x ∧ j ≠ 0xF := by simpa using hj
  rw [writeFlagThenResult_reg, if_neg hx, if_neg hF]

theorem drawRows_frame (s : State) (x0 y0 : Byte) (rows : List Byte) :
    Frame [.regs, .display] s (s.drawRows x0 y0 rows) :=
  ((setDisp_frame s _).mono (by simp)).andThen (setReg_frame _ _ _) (by simp)

theorem drawRows_sameRegsBut (s : State) (x0 y0 : Byte) (rows : List Byte) :
    sameRegsBut [0xF] s (s.drawRows x0 y0 rows) := setReg_sameRegsBut (s.setDisp _) 0xF _

/-- A pop changes the stack and what its continuation changes, or raises a fault. -/
theorem popThen_setPc_frame (s : State) : Frame [.pc, .stack, .mode] s (s.popThen (fun w t => t.setPc w)) := by
  obtain ⟨-, e⟩ | ⟨w, rest, -, e⟩ := popThen_cases s (fun w t => t.setPc w) <;> rw [e]
  · exact (raise_frame s _).mono (by simp)
  · exact ((setStack_frame s rest).mono (by simp)).andThen (setPc_frame _ w) (by simp)

theorem pushThen_setPc_frame (s : State) (w target : Word) :
    Frame [.pc, .stack, .mode] s (s.pushThen w (fun t => t.setPc target)) := by
  obtain ⟨-, e⟩ | ⟨-, e⟩ := pushThen_cases s w (fun t => t.setPc target) <;> rw [e]
  · exact (raise_frame s _).mono (by simp)
  · exact ((setStack_frame s _).mono (by simp)).andThen (setPc_frame _ target) (by simp)

/-- A read changes what its continuation changes, or raises a fault. -/
theorem memReadThen_frame (s : State) (addr : Word) (n : Nat) (next : List Byte → State) (l : List Piece)
    (hl : Piece.mode ∈ l) (hnext : ∀ b, Frame l s (next b)) : Frame l s (s.memReadThen addr n next) := by
  obtain ⟨-, e⟩ | ⟨-, e⟩ := memReadThen_cases s addr n next <;> rw [e]
  · exact hnext _
  · exact (raise_frame s _).mono (by simpa using hl)

theorem memWrite_frame (s : State) (addr : Word) (bytes : List Byte) :
    Frame [.memory, .mode] s (s.memWrite addr bytes) := by
  obtain ⟨-, e⟩ | ⟨-, e⟩ := memWrite_cases s addr bytes <;> rw [e]
  · exact (setMem_frame s _).mono (by simp)
  · exact (raise_frame s _).mono (by simp)

end Sys2Proof.Machine
end

section
/-! PROOF. What the execution of one instruction does, over all instructions: its meaning as updates of the state, the
pieces, registers and bytes it may change, the fault it may raise. -/

namespace Sys2Proof.Machine

/-! ## The meaning of each instruction as an update -/

theorem exec_ret (s : State) : exec .ret s = .next (s.popThen (fun w t => t.setPc w)) := rfl

theorem exec_jump (nnn : BitVec 12) (s : State) : exec (.jump nnn) s = .next (s.setPc (zextAddr nnn)) := rfl

theorem exec_call (nnn : BitVec 12) (s : State) :
    exec (.call nnn) s = .next (s.pushThen s.pc (fun t => t.setPc (zextAddr nnn))) := rfl

theorem exec_jumpPlusV0 (nnn : BitVec 12) (s : State) :
    exec (.jumpPlusV0 nnn) s = .next (s.setPc (zextAddr nnn + zextByte (s.reg 0))) := rfl

theorem exec_skipEqReg (x y : Reg) (low : BitVec 4) (s : State) :
    exec (.skipEqReg x y low) s = .next (s.skipIf (s.reg x == s.reg y)) := rfl

theorem exec_skipNeReg (x y : Reg) (low : BitVec 4) (s : State) :
    exec (.skipNeReg x y low) s = .next (s.skipIf (s.reg x != s.reg y)) := rfl

theorem exec_regMove (x y : Reg) (s : State) : exec (.regMove x y) s = .next (s.setReg x (s.reg y)) := rfl

theorem exec_orReg (x y : Reg) (s : State) : exec (.orReg x y) s = .next (s.setReg x (s.reg x ||| s.reg y)) := rfl

theorem exec_andReg (x y : Reg) (s : State) : exec (.andReg x y) s = .next (s.setReg x (s.reg x &&& s.reg y)) := rfl

theorem exec_xorReg (x y : Reg) (s : State) : exec (.xorReg x y) s = .next (s.setReg x (s.reg x ^^^ s.reg y)) := rfl

theorem exec_addReg (x y : Reg) (s : State) : exec (.addReg x y) s =
    .next (s.writeFlagThenResult x (carryFlag (s.reg x) (s.reg y)) (s.reg x + s.reg y)) := rfl

theorem exec_subReg (x y : Reg) (s : State) : exec (.subReg x y) s =
    .next (s.writeFlagThenResult x (greaterFlag (s.reg x) (s.reg y)) (s.reg x - s.reg y)) := rfl

theorem exec_subnReg (x y : Reg) (s : State) : exec (.subnReg x y) s =
    .next (s.writeFlagThenResult x (greaterFlag (s.reg y) (s.reg x)) (s.reg y - s.reg x)) := rfl

theorem exec_shr (x y : Reg) (s : State) : exec (.shr x y) s =
    .next (s.writeFlagThenResult x (shrFlag (s.reg x)) (s.reg x >>> 1)) := rfl

theorem exec_shl (x y : Reg) (s : State) : exec (.shl x y) s =
    .next (s.writeFlagThenResult x (shlFlag s.cfg.shlFlagNormalised (s.reg x)) (s.reg x <<< 1)) := rfl

theorem exec_rand (x : Reg) (kk : Byte) (s : State) :
    exec (.rand x kk) s = .next (s.setReg x (s.ports.randByte &&& kk)) := rfl

theorem exec_addIndex (x : Reg) (s : State) :
    exec (.addIndex x) s = .next (s.setIndex (s.i + zextByte (s.reg x))) := rfl

theorem exec_loadFontAddr (x : Reg) (s : State) :
    exec (.loadFontAddr x) s = .next (s.setIndex (glyphAddr (s.reg x))) := rfl

theorem exec_storeBcd (x : Reg) (s : State) :
    exec (.storeBcd x) s = .next (s.memWrite s.i (bcdDigits (s.reg x))) := rfl

theorem exec_storeRegs (x : Reg) (s : State) : exec (.storeRegs x) s = .next (s.memWrite s.i (s.regsThrough x)) := rfl

theorem exec_loadRegs (x : Reg) (s : State) :
    exec (.loadRegs x) s = .next (s.memReadThen s.i (x.val + 1) (fun b => s.loadRegsFrom b)) := rfl

theorem exec_draw (x y : Reg) (n : Fin 16) (s : State) : exec (.draw x y n) s =
    .next (s.memReadThen s.i n.val (fun rows => s.drawRows (s.reg x) (s.reg y) rows)) := rfl

theorem exec_skipKeyPressed (x : Reg) (s : State) :
    exec (.skipKeyPressed x) s = .next (s.skipIf (s.keyHeld (s.reg x))) := rfl

theorem exec_skipKeyNotPressed (x : Reg) (s : State) :
    exec (.skipKeyNotPressed x) s = .next (s.skipIf (!s.keyHeld (s.reg x))) := rfl

theorem exec_awaitKey (x : Reg) (s : State) : exec (.awaitKey x) s = .next (s.setMode (.awaitingKey x)) := rfl

theorem exec_loadDelay (x : Reg) (s : State) : exec (.loadDelay x) s = .next (s.setReg x s.dt) := rfl

theorem exec_storeDelay (x : Reg) (s : State) : exec (.storeDelay x) s = .next (s.setDelay (s.reg x)) := rfl

theorem exec_storeSound (x : Reg) (s : State) : exec (.storeSound x) s = .next (s.setSound (s.reg x)) := rfl

/-! ## What an instruction leaves alone -/

/-- Settles O40: one case per instruction, each the frame of the update that is its meaning. -/
theorem onlyTheNamedPiecesChange : Obligations.OnlyTheNamedPiecesChange := by
  intro i s t h
  cases i with
  | ret => cases h; exact popThen_setPc_frame s
  | call nnn => cases h; exact pushThen_setPc_frame s _ _
  | jump nnn | jumpPlusV0 nnn => cases h; exact setPc_frame s _
  | skipEqImm x kk | skipNeImm x kk | skipEqReg x y low | skipNeReg x y low | skipKeyPressed x | skipKeyNotPressed x =>
    cases h; exact skipIf_frame s _
  | loadImm x kk | addImm x kk | regMove x y | orReg x y | andReg x y | xorReg x y | rand x kk | loadDelay x =>
    cases h; exact setReg_frame s x _
  | addReg x y | subReg x y | subnReg x y | shr x y | shl x y => cases h; exact writeFlagThenResult_frame s x _ _
  | loadIndex nnn | addIndex x | loadFontAddr x => cases h; exact setIndex_frame s _
  | storeBcd x | storeRegs x => cases h; exact memWrite_frame s s.i _
  | loadRegs x =>
    cases h
    exact memReadThen_frame s _ _ _ _ (by simp [writtenPieces])
      (fun b => (loadRegsFrom_frame s b).mono (by simp [writtenPieces]))
  | clearDisplay => cases h; exact setDisp_frame s _
  | draw x y n =>
    cases h
    exact memReadThen_frame s _ _ _ _ (by simp [writtenPieces])
      (fun b => (drawRows_frame s _ _ b).mono (by simp [writtenPieces]))
  | awaitKey x => cases h; exact setMode_frame s _
  | storeDelay x => cases h; exact setDelay_frame s _
  | storeSound x => cases h; exact setSound_frame s _

/-- Settles O38: every arm of `exec` answers a next state. -/
theorem everyInstructionAnswersNext : Obligations.EveryInstructionAnswersNext := by
  intro i s
  cases i <;> exact ⟨_, rfl⟩

/-- No instruction is given the tone, the sequencer, the inputs or the parameters. -/
theorem not_mem_writtenPieces (i : Instr) : Piece.tone ∉ writtenPieces i ∧ Piece.sequencer ∉ writtenPieces i ∧
    Piece.inputs ∉ writtenPieces i ∧ Piece.params ∉ writtenPieces i := by
  cases i <;> simp [writtenPieces]

theorem exec_tone {i : Instr} {s t : State} (h : exec i s = .next t) : t.tone = s.tone := by
  obtain ⟨hnot, -⟩ := not_mem_writtenPieces i
  exact onlyTheNamedPiecesChange i s t h .tone hnot

theorem exec_sequencer {i : Instr} {s t : State} (h : exec i s = .next t) :
    t.batchPos = s.batchPos ∧ t.paintRequest = s.paintRequest := by
  obtain ⟨-, hnot, -⟩ := not_mem_writtenPieces i
  exact onlyTheNamedPiecesChange i s t h .sequencer hnot

theorem exec_inputs {i : Instr} {s t : State} (h : exec i s = .next t) :
    t.scripted = s.scripted ∧ t.time = s.time := by
  obtain ⟨-, -, hnot, -⟩ := not_mem_writtenPieces i
  exact onlyTheNamedPiecesChange i s t h .inputs hnot

theorem exec_cfg {i : Instr} {s t : State} (h : exec i s = .next t) : t.cfg = s.cfg := by
  obtain ⟨-, -, -, hnot⟩ := not_mem_writtenPieces i
  exact onlyTheNamedPiecesChange i s t h .params hnot

/-- The bytes of a read go to the registers up to the one read last. -/
theorem loadRegsFrom_bytesAt_reg (s : State) (addr : Word) (x j : Reg) :
    (s.loadRegsFrom (s.mem.bytesAt addr (x.val + 1))).reg j =
      if j ≤ x then s.byte (byteAddr addr j.val) else s.reg j := by
  rw [loadRegsFrom_reg, Memory.bytesAt_getD]
  simp only [Nat.lt_succ_iff, Fin.le_def, State.byte]

/-- A read changes the registers its continuation changes: a fault changes none. -/
theorem memReadThen_sameRegsBut (s : State) (addr : Word) (n : Nat) (next : List Byte → State) (l : List Reg)
    (hnext : sameRegsBut l s (next (s.mem.bytesAt addr n))) : sameRegsBut l s (s.memReadThen addr n next) := by
  obtain ⟨-, e⟩ | ⟨-, e⟩ := memReadThen_cases s addr n next <;> rw [e]
  · exact hnext
  · exact (raise_frame s _).sameRegsBut (by simp) l

/-- Settles O39: an instruction whose row has no registers is framed by that row; the others write the registers of
their own list. -/
theorem onlyTheNamedRegistersChange : Obligations.OnlyTheNamedRegistersChange := by
  intro i s t h
  by_cases hi : Piece.regs ∈ writtenPieces i
  case neg => exact (onlyTheNamedPiecesChange i s t h).sameRegsBut hi _
  cases i with
  | loadImm x kk | addImm x kk | regMove x y | orReg x y | andReg x y | xorReg x y | rand x kk | loadDelay x =>
    cases h; exact setReg_sameRegsBut s x _
  | addReg x y | subReg x y | subnReg x y | shr x y | shl x y => cases h; exact writeFlagThenResult_sameRegsBut s x _ _
  | draw x y n => cases h; exact memReadThen_sameRegsBut s _ _ _ _ (drawRows_sameRegsBut s _ _ _)
  | loadRegs x =>
    cases h
    refine memReadThen_sameRegsBut s _ _ _ _ (fun j hj => ?_)
    have hjx : ¬ j ≤ x := by simpa [writtenRegs] using hj
    exact (loadRegsFrom_bytesAt_reg s s.i x j).trans (if_neg hjx)
  | _ => simp [writtenPieces] at hi

/-- An address that is none of a store's keeps its byte: a store that faults writes nothing. -/
theorem memWrite_byte_other (s : State) (addr : Word) (bytes : List Byte) (a : Nat)
    (ha : ∀ j, j < bytes.length → a ≠ byteAddr addr j) : (s.memWrite addr bytes).byte a = s.byte a := by
  obtain ⟨-, e⟩ | ⟨-, e⟩ := memWrite_cases s addr bytes <;> rw [e]
  · exact s.mem.read_writeFrom_other addr 0 bytes a (by simpa using ha)
  · rfl

/-- Settles O41: only the two stores have memory in their row, and a store writes the bytes of its access. -/
theorem onlyTheStoredBytesChange : Obligations.OnlyTheStoredBytesChange := by
  intro i s t h a ha
  by_cases hi : Piece.memory ∈ writtenPieces i
  case neg => exact onlyTheNamedPiecesChange i s t h .memory hi a
  cases i with
  | storeBcd x => cases h; exact memWrite_byte_other s s.i _ a ha
  | storeRegs x => cases h; exact memWrite_byte_other s s.i _ a (by simpa [storedCount] using ha)
  | _ => simp [writtenPieces] at hi

/-! ## Faults of an instruction -/

/-- A store that ends in a faulted mode has raised its own fault. -/
theorem memWrite_fault {s : State} {addr : Word} {bytes : List Byte} {f : Fault} (hs : ∀ g, s.mode ≠ .faulted g)
    (h : (s.memWrite addr bytes).mode = .faulted f) :
    f = .memoryOutOfRange addr bytes.length ∧ Frame [.mode] s (s.memWrite addr bytes) := by
  obtain ⟨-, e⟩ | ⟨-, e⟩ := memWrite_cases s addr bytes <;> rw [e] at h ⊢
  · exact absurd h (hs f)
  · cases h; exact ⟨rfl, raise_frame s _⟩

/-- A read that ends in a faulted mode has raised its own fault, where its continuation keeps the mode. -/
theorem memReadThen_fault {s : State} {addr : Word} {n : Nat} {next : List Byte → State} {f : Fault}
    (hs : ∀ g, s.mode ≠ .faulted g) (h : (s.memReadThen addr n next).mode = .faulted f)
    (hnext : ∀ b, (next b).mode = s.mode) :
    f = .memoryOutOfRange addr n ∧ Frame [.mode] s (s.memReadThen addr n next) := by
  obtain ⟨-, e⟩ | ⟨-, e⟩ := memReadThen_cases s addr n next <;> rw [e] at h ⊢
  · exact absurd ((hnext _).symm.trans h) (hs f)
  · cases h; exact ⟨rfl, raise_frame s _⟩

/-- Settles O37: an instruction whose row has no mode cannot raise; of the seven others await-key enters no faulted
mode, and each of the rest raises its own fault before it changes anything. -/
theorem faultsArePrecise : Obligations.FaultsArePrecise := by
  intro i s t f hs h hf
  by_cases hi : Piece.mode ∈ writtenPieces i
  case neg => exact absurd ((onlyTheNamedPiecesChange i s t h .mode hi).symm.trans hf) (hs f)
  cases i with
  | ret =>
    cases h
    obtain ⟨-, e⟩ | ⟨w, rest, -, e⟩ := popThen_cases s (fun w t => t.setPc w) <;> rw [e] at hf ⊢
    · cases hf; exact ⟨rfl, raise_frame s _⟩
    · exact absurd hf (hs f)
  | call nnn =>
    cases h
    obtain ⟨-, e⟩ | ⟨-, e⟩ := pushThen_cases s s.pc (fun t => t.setPc (zextAddr nnn)) <;> rw [e] at hf ⊢
    · cases hf; exact ⟨rfl, raise_frame s _⟩
    · exact absurd hf (hs f)
  | awaitKey x => cases h; cases hf
  | storeBcd x =>
    rw [exec_storeBcd] at h
    cases h
    obtain ⟨hf', hframe⟩ := memWrite_fault hs hf
    exact ⟨hf' ▸ rfl, hframe⟩
  | storeRegs x =>
    rw [exec_storeRegs] at h
    cases h
    obtain ⟨hf', hframe⟩ := memWrite_fault hs hf
    rw [regsThrough_length] at hf'
    exact ⟨hf' ▸ rfl, hframe⟩
  | loadRegs x =>
    rw [exec_loadRegs] at h
    cases h
    obtain ⟨hf', hframe⟩ := memReadThen_fault hs hf (fun b => loadRegsFrom_frame s b .mode (by simp))
    exact ⟨hf' ▸ rfl, hframe⟩
  | draw x y n =>
    rw [exec_draw] at h
    cases h
    obtain ⟨hf', hframe⟩ := memReadThen_fault hs hf (fun b => drawRows_frame s _ _ b .mode (by simp))
    exact ⟨hf' ▸ rfl, hframe⟩
  | _ => simp [writtenPieces] at hi

/-! ## Inputs (60_exceptions.md section 7) -/

/-- `s` with other values at the input ports. -/
def State.withInputs (s : State) (l : List Inputs) (n : Nat) : State := { s with scripted := l, time := n }

theorem withInputs_memWrite (s : State) (l : List Inputs) (n : Nat) (addr : Word) (bytes : List Byte) :
    (s.withInputs l n).memWrite addr bytes = (s.memWrite addr bytes).withInputs l n := by
  have hok : (s.withInputs l n).cfg = s.cfg := rfl
  unfold State.memWrite
  rw [hok]
  split <;> rfl

theorem withInputs_memReadThen (s : State) (l : List Inputs) (n : Nat) (addr : Word) (k : Nat)
    (next next' : List Byte → State) (h : ∀ b, next' b = (next b).withInputs l n) :
    (s.withInputs l n).memReadThen addr k next' = (s.memReadThen addr k next).withInputs l n := by
  have hok : (s.withInputs l n).cfg = s.cfg := rfl
  unfold State.memReadThen
  rw [hok]
  split
  · exact h _
  · rfl

theorem withInputs_popThen_setPc (s : State) (l : List Inputs) (n : Nat) :
    (s.withInputs l n).popThen (fun w t => t.setPc w) = (s.popThen (fun w t => t.setPc w)).withInputs l n := by
  have hst : (s.withInputs l n).stack = s.stack := rfl
  unfold State.popThen
  rw [hst]
  split <;> rfl

theorem withInputs_pushThen_setPc (s : State) (l : List Inputs) (n : Nat) (w target : Word) :
    (s.withInputs l n).pushThen w (fun t => t.setPc target) =
      (s.pushThen w (fun t => t.setPc target)).withInputs l n := by
  have hfull : (s.withInputs l n).stackFull = s.stackFull := rfl
  unfold State.pushThen
  rw [hfull]
  split <;> rfl

/-- Settles O42: an update by values that are no inputs commutes with a change of the inputs; the pop, the push and the
memory accesses decide by pieces that are no inputs either. -/
theorem otherInstructionsReadNoInput : Obligations.OtherInstructionsReadNoInput := by
  intro i s l n hrand hpressed hnot
  show exec i (s.withInputs l n) = onNext (fun t => t.withInputs l n) (exec i s)
  cases i with
  | rand x kk => exact absurd rfl (hrand x kk)
  | skipKeyPressed x => exact absurd rfl (hpressed x)
  | skipKeyNotPressed x => exact absurd rfl (hnot x)
  | ret => exact congrArg _ (withInputs_popThen_setPc s l n)
  | call nnn => exact congrArg _ (withInputs_pushThen_setPc s l n _ _)
  | storeBcd x | storeRegs x => exact congrArg _ (withInputs_memWrite s l n _ _)
  | loadRegs x =>
    rw [exec_loadRegs, exec_loadRegs]
    exact congrArg _ (withInputs_memReadThen s l n _ _ _ _ (fun _ => rfl))
  | draw x y k =>
    rw [exec_draw, exec_draw]
    exact congrArg _ (withInputs_memReadThen s l n _ _ _ _ (fun _ => rfl))
  | _ => rfl

end Sys2Proof.Machine
end

section
/-! PROOF. What every step keeps: canonical memory, the bounded stack, the batch within its frame (10_state.md section
2, 20_memory.md section 1), and the bound on `PC` (10_state.md section 5). -/

namespace Sys2Proof.Machine

/-! ## What a step that answers a next state has done -/

/-- A turn without an event, a key press, a timer tick, or a step slot whose `Step` event answered `u`. -/
theorem step_next_cases {s t : State} (h : step s = .next t) :
    (s.nextEvent = none ∧ t = s.idle) ∨
    (∃ k, s.nextEvent = some (.keyPress k) ∧ t = ((s.setPaint false).keyPress k).sampleInputs) ∨
    (s.nextEvent = some .timerTick ∧ t = s.endBatch.timerTick.sampleInputs) ∨
    (s.nextEvent = some .step ∧ ∃ u, s.takeSlot.stepEvent = .next u ∧ t = u.sampleInputs) := by
  obtain ⟨hev, e⟩ | ⟨k, hev, e⟩ | ⟨hev, e⟩ | ⟨hev, e⟩ := step_cases s <;> rw [e] at h
  · cases h; exact .inl ⟨hev, rfl⟩
  · cases h; exact .inr (.inl ⟨k, hev, rfl⟩)
  · cases h; exact .inr (.inr (.inl ⟨hev, rfl⟩))
  · obtain ⟨u, hu, rfl⟩ := (onNext_eq_next _ _ _).mp h
    exact .inr (.inr (.inr ⟨hev, u, hu, rfl⟩))

/-- A `Step` event does nothing, raises a fault of the fetch or the decode, or executes one instruction. -/
theorem stepEvent_next_cases {s u : State} (h : s.stepEvent = .next u) :
    u = s ∨ (∃ f, u = s.raise f) ∨
    (accessOk s.cfg s.pc 2 = true ∧ ((∃ f, u = s.advancePc.raise f) ∨ ∃ i, exec i s.advancePc = .next u)) := by
  obtain ⟨-, e⟩ | ⟨-, -, e⟩ | ⟨-, hok, err, -, e⟩ | ⟨-, hok, i, -, e⟩ := stepEvent_cases s <;> rw [e] at h
  · cases h; exact .inl rfl
  · cases h; exact .inr (.inl ⟨_, rfl⟩)
  · cases h; exact .inr (.inr ⟨hok, .inl ⟨_, rfl⟩⟩)
  · exact .inr (.inr ⟨hok, .inr ⟨i, h⟩⟩)

theorem idle_frame (s : State) : Frame [.sequencer, .inputs] s s.idle := by
  obtain ⟨-, e⟩ | ⟨-, e⟩ := idle_cases s <;> rw [e]
  · exact Frame.refl _ s
  · exact ((setPaint_frame s _).mono (by simp)).andThen (sampleInputs_frame _) (by simp)

theorem keyPress_frame (s : State) (k : Key) : Frame [.regs, .mode] s (s.keyPress k) := by
  obtain ⟨x, -, e⟩ | ⟨-, e⟩ := keyPress_cases s k <;> rw [e]
  · exact ((setReg_frame s x _).mono (by simp)).andThen (setMode_frame _ _) (by simp)
  · exact Frame.refl _ s

theorem keyPress_mem (s : State) (k : Key) : (s.keyPress k).mem = s.mem := by
  obtain ⟨x, -, e⟩ | ⟨-, e⟩ := keyPress_cases s k
  · rw [e]; rfl
  · rw [e]

theorem idle_mem (s : State) : s.idle.mem = s.mem := by
  obtain ⟨-, e⟩ | ⟨-, e⟩ := idle_cases s
  · rw [e]
  · rw [e]; rfl

theorem idle_batchPos (s : State) : s.idle.batchPos = s.batchPos := by
  obtain ⟨-, e⟩ | ⟨-, e⟩ := idle_cases s
  · rw [e]
  · rw [e]; rfl

/-- A step slot is taken only while the batch has one left. -/
theorem batchPos_lt_of_nextEvent_step {s : State} (h : s.nextEvent = some .step) :
    s.batchPos < s.cfg.stepsPerFrame := by
  have hseq : s.sequencerEvent = some .step := by
    obtain ⟨-, e⟩ | ⟨x, k, -, -, -, e⟩ | ⟨-, -, e⟩ := nextEvent_cases s <;> rw [e] at h
    · cases h
    · cases h
    · exact h
  obtain ⟨-, e⟩ | ⟨-, hlt, -⟩ | ⟨-, -, e⟩ := sequencerEvent_cases s
  · rw [e] at hseq; cases hseq
  · exact hlt
  · rw [e] at hseq; cases hseq

/-! ## The invariant -/

theorem loadRegsFrom_mem (s : State) (b : List Byte) : (s.loadRegsFrom b).mem = s.mem := setRegs_mem s _

theorem drawRows_mem (s : State) (x0 y0 : Byte) (rows : List Byte) : (s.drawRows x0 y0 rows).mem = s.mem :=
  setReg_mem (s.setDisp _) 0xF _

/-- A read keeps memory where its continuation does: a fault keeps it too. -/
theorem memReadThen_mem {s : State} {addr : Word} {n : Nat} {next : List Byte → State}
    (hnext : ∀ b, (next b).mem = s.mem) : (s.memReadThen addr n next).mem = s.mem := by
  obtain ⟨-, e⟩ | ⟨-, e⟩ := memReadThen_cases s addr n next <;> rw [e]
  · exact hnext _
  · exact raise_mem s _

/-- Executing an instruction keeps memory canonical: only the two stores write it. -/
theorem exec_keeps_wf {i : Instr} {s t : State} (h : exec i s = .next t) (hwf : s.mem.wf = true) : t.mem.wf = true := by
  cases i with
  | storeBcd x | storeRegs x => cases h; exact memWrite_keeps_wf s s.i _ hwf
  | ret =>
    cases h
    obtain ⟨-, e⟩ | ⟨w, rest, -, e⟩ := popThen_cases s (fun w t => t.setPc w) <;> rw [e] <;> exact hwf
  | call nnn =>
    cases h
    obtain ⟨-, e⟩ | ⟨-, e⟩ := pushThen_cases s s.pc (fun t => t.setPc (zextAddr nnn)) <;> rw [e] <;> exact hwf
  | loadRegs x =>
    rw [exec_loadRegs] at h
    cases h
    rwa [memReadThen_mem (fun b => loadRegsFrom_mem s b)]
  | draw x y n =>
    rw [exec_draw] at h
    cases h
    rwa [memReadThen_mem (fun b => drawRows_mem s _ _ b)]
  | _ => cases h; exact hwf

/-- What an instruction does to the stack: nothing, a pop into `PC`, or a push of `PC` where there is room. -/
theorem exec_stack_cases {i : Instr} {s t : State} (h : exec i s = .next t) :
    t.stack = s.stack ∨ (∃ w, s.stack = w :: t.stack ∧ t.pc = w) ∨
    (s.stackFull = false ∧ t.stack = s.pc :: s.stack) := by
  by_cases hi : Piece.stack ∈ writtenPieces i
  case neg => exact .inl (onlyTheNamedPiecesChange i s t h .stack hi)
  cases i with
  | ret =>
    cases h
    obtain ⟨-, e⟩ | ⟨w, rest, hst, e⟩ := popThen_cases s (fun w t => t.setPc w) <;> rw [e]
    · exact .inl rfl
    · exact .inr (.inl ⟨w, hst, rfl⟩)
  | call nnn =>
    cases h
    obtain ⟨-, e⟩ | ⟨hroom, e⟩ := pushThen_cases s s.pc (fun t => t.setPc (zextAddr nnn)) <;> rw [e]
    · exact .inl rfl
    · exact .inr (.inr ⟨hroom, rfl⟩)
  | _ => simp [writtenPieces] at hi

theorem stackBounded_iff (s : State) :
    s.stackBounded ↔ ∀ cap, s.cfg.stackCapacity = some cap → s.stack.length ≤ cap := by
  unfold State.stackBounded
  cases s.cfg.stackCapacity <;> simp

theorem stackFull_eq_false_iff (s : State) :
    s.stackFull = false ↔ ∀ cap, s.cfg.stackCapacity = some cap → s.stack.length < cap := by
  unfold State.stackFull
  cases s.cfg.stackCapacity <;> simp

theorem exec_keeps_stackBounded {i : Instr} {s t : State} (h : exec i s = .next t) (hs : s.stackBounded) :
    t.stackBounded := by
  rw [stackBounded_iff] at hs ⊢
  intro cap hcap
  rw [exec_cfg h] at hcap
  have hle := hs cap hcap
  obtain e | ⟨w, e, -⟩ | ⟨hroom, e⟩ := exec_stack_cases h
  · rwa [e]
  · rw [e, List.length_cons] at hle
    omega
  · rw [e, List.length_cons]
    exact (stackFull_eq_false_iff s).mp hroom cap hcap

/-- The invariant speaks of memory, the stack, the parameters and the batch position only. -/
theorem State.Inv.of_eq {s t : State} (hs : s.Inv) (hmem : t.mem = s.mem) (hstack : t.stack = s.stack)
    (hcfg : t.cfg = s.cfg) (hpos : t.batchPos ≤ s.cfg.stepsPerFrame) : t.Inv := by
  obtain ⟨hwf, hbound, -⟩ := hs
  refine ⟨hmem ▸ hwf, ?_, hcfg ▸ hpos⟩
  rw [stackBounded_iff] at hbound ⊢
  rwa [hstack, hcfg]

theorem exec_keeps_inv {i : Instr} {s t : State} (h : exec i s = .next t) (hs : s.Inv) : t.Inv := by
  obtain ⟨hwf, hbound, hpos⟩ := hs
  refine ⟨exec_keeps_wf h hwf, exec_keeps_stackBounded h hbound, ?_⟩
  rwa [(exec_sequencer h).1, exec_cfg h]

theorem stepEvent_keeps_inv {s u : State} (h : s.stepEvent = .next u) (hs : s.Inv) : u.Inv := by
  obtain rfl | ⟨f, rfl⟩ | ⟨-, ⟨f, rfl⟩ | ⟨i, hi⟩⟩ := stepEvent_next_cases h
  · exact hs
  · exact hs
  · exact hs
  · exact exec_keeps_inv hi hs

/-- Settles O55: one case per kind of turn. Only a step slot touches memory or the stack, and it is taken while the
batch has a slot left; a tick sets the batch position to 0, and the other turns leave it. -/
theorem stepKeepsTheInvariant : Obligations.StepKeepsTheInvariant := by
  intro s t hs h
  have hpos : s.batchPos ≤ s.cfg.stepsPerFrame := hs.2.2
  obtain ⟨-, rfl⟩ | ⟨k, -, rfl⟩ | ⟨-, rfl⟩ | ⟨hev, u, hu, rfl⟩ := step_next_cases h
  · have hframe := idle_frame s
    exact hs.of_eq (idle_mem s) (hframe .stack (by simp)) (hframe .params (by simp)) (idle_batchPos s ▸ hpos)
  · have hframe := keyPress_frame (s.setPaint false) k
    have hkeep : ((s.setPaint false).keyPress k).batchPos = s.batchPos := (hframe .sequencer (by simp)).1
    exact hs.of_eq (keyPress_mem _ k) (hframe .stack (by simp)) (hframe .params (by simp)) (hkeep ▸ hpos)
  · obtain ⟨hmem, -, -, -, hstack, -, -, hzero, -, -, hcfg⟩ := timerTick_keeps s.endBatch
    exact hs.of_eq hmem hstack hcfg (hzero ▸ Nat.zero_le _)
  · have hslot : s.takeSlot.Inv := hs.of_eq rfl rfl rfl (batchPos_lt_of_nextEvent_step hev)
    have hu' : u.Inv := stepEvent_keeps_inv hu hslot
    exact hu'

/-! ## The bound on `PC` -/

theorem zextByte_toNat (b : Byte) : (zextByte b).toNat = b.toNat := BitVec.toNat_setWidth_of_le (by decide)

/-- jump-plus-v0's sum does not wrap: it is at most 0xFFF + 0xFF (decision D15). -/
theorem zextAddr_add_zextByte_toNat (nnn : BitVec 12) (b : Byte) :
    (zextAddr nnn + zextByte b).toNat = nnn.toNat + b.toNat := by
  have := nnn.isLt
  have := b.isLt
  rw [BitVec.toNat_add, zextAddr_toNat, zextByte_toNat]
  omega

/-- Where `PC` and the return addresses are at most 0x1000, as after an advance, an instruction's `PC` is at most
0x10FE: the largest target is that of jump-plus-v0. -/
theorem exec_pc_le {i : Instr} {s t : State} (h : exec i s = .next t) (hpc : s.pc.toNat ≤ 0x1000)
    (hst : ∀ w ∈ s.stack, w.toNat ≤ 0x1000) : t.pc.toNat ≤ 0x10FE := by
  by_cases hi : Piece.pc ∈ writtenPieces i
  case neg =>
    rw [onlyTheNamedPiecesChange i s t h .pc hi]
    omega
  cases i with
  | ret =>
    cases h
    obtain ⟨-, e⟩ | ⟨w, rest, hcons, e⟩ := popThen_cases s (fun w t => t.setPc w) <;> rw [e]
    · rw [raise_pc]
      omega
    · have := hst w (by simp [hcons])
      rw [setPc_pc]
      omega
  | call nnn =>
    cases h
    obtain ⟨-, e⟩ | ⟨-, e⟩ := pushThen_cases s s.pc (fun t => t.setPc (zextAddr nnn)) <;> rw [e]
    · rw [raise_pc]
      omega
    · rw [setPc_pc, zextAddr_toNat]
      omega
  | jump nnn =>
    cases h
    rw [setPc_pc, zextAddr_toNat]
    omega
  | jumpPlusV0 nnn =>
    cases h
    rw [setPc_pc, zextAddr_add_zextByte_toNat]
    omega
  | skipEqImm x kk | skipNeImm x kk | skipEqReg x y low | skipNeReg x y low | skipKeyPressed x | skipKeyNotPressed x =>
    cases h
    rw [skipIf_pc_toNat]
    split <;> omega
  | _ => simp [writtenPieces] at hi

theorem exec_keeps_pcInv {i : Instr} {s t : State} (h : exec i s = .next t) (hpc : s.pc.toNat ≤ 0x1000)
    (hst : ∀ w ∈ s.stack, w.toNat ≤ 0x1000) : t.PcInv := by
  refine ⟨exec_pc_le h hpc hst, ?_⟩
  obtain e | ⟨w, e, -⟩ | ⟨-, e⟩ := exec_stack_cases h
  · rwa [e]
  · exact fun a ha => hst a (e ▸ List.mem_cons_of_mem w ha)
  · rw [e]
    exact List.forall_mem_cons.mpr ⟨hpc, hst⟩

/-- A fetch that fits under OOB_POLICY = fault ends at 0x1000 at the latest. -/
theorem advancePc_pc_le {s : State} (hoob : s.cfg.oobPolicy = .fault) (hok : accessOk s.cfg s.pc 2 = true) :
    s.advancePc.pc.toNat ≤ 0x1000 := by
  obtain hwrap | hzero | hle := (accessOk_iff s.cfg s.pc 2).mp hok
  · rw [hoob] at hwrap; cases hwrap
  · omega
  · rw [advancePc_pc, BitVec.toNat_add]
    exact (Nat.mod_le _ _).trans hle

theorem stepEvent_keeps_pcInv {s u : State} (hoob : s.cfg.oobPolicy = .fault) (h : s.stepEvent = .next u)
    (hs : s.PcInv) : u.PcInv := by
  obtain rfl | ⟨f, rfl⟩ | ⟨hok, ⟨f, rfl⟩ | ⟨i, hi⟩⟩ := stepEvent_next_cases h
  · exact hs
  · exact hs
  · exact ⟨(advancePc_pc_le hoob hok).trans (by decide), hs.2⟩
  · exact exec_keeps_pcInv hi (advancePc_pc_le hoob hok) hs.2

theorem State.PcInv.of_eq {s t : State} (hs : s.PcInv) (hpc : t.pc = s.pc) (hstack : t.stack = s.stack) : t.PcInv := by
  unfold State.PcInv
  rwa [hpc, hstack]

/-- Settles O56: one case per kind of turn. Only a step slot moves `PC` or the stack; it advances `PC` to 0x1000 at
most, since the fetch fitted, and from there no instruction takes `PC` above 0x10FE or pushes more than 0x1000. -/
theorem stepKeepsThePcBelowItsBound : Obligations.StepKeepsThePcBelowItsBound := by
  intro s t hoob hs h
  obtain ⟨-, rfl⟩ | ⟨k, -, rfl⟩ | ⟨-, rfl⟩ | ⟨hev, u, hu, rfl⟩ := step_next_cases h
  · have hframe := idle_frame s
    exact hs.of_eq (hframe .pc (by simp)) (hframe .stack (by simp))
  · have hframe := keyPress_frame (s.setPaint false) k
    exact hs.of_eq (hframe .pc (by simp)) (hframe .stack (by simp))
  · obtain ⟨-, -, -, hpc, hstack, -⟩ := timerTick_keeps s.endBatch
    exact hs.of_eq hpc hstack
  · have hu' : u.PcInv := stepEvent_keeps_pcInv (s := s.takeSlot) hoob hu hs
    exact hu'

/-- Settles O54: reset has no memory cell, no return address, no slot used, and `PC` at 0x200. -/
theorem resetSatisfiesTheInvariant : Obligations.ResetSatisfiesTheInvariant :=
  ⟨⟨rfl, Nat.zero_le _, Nat.zero_le _⟩, by decide, by simp [State.reset, State.resetWith]⟩

end Sys2Proof.Machine
end

section
/-! PROOF. Register moves and arithmetic (41_alu.md): the value each instruction leaves in its destination and in VF,
and the moves between a register and a timer (44_keypad_timers.md section 2). -/

namespace Sys2Proof.Machine

/-- Settles O3: one register write each; the value is the bitwise operation of the library, bit by bit. -/
theorem moveAndLogicResults : Obligations.MoveAndLogicResults := by
  intro s x y
  refine ⟨⟨_, exec_regMove x y s, setReg_reg_same s x _, setReg_sameRegsBut s x _, setReg_frame s x _⟩,
    ⟨_, exec_orReg x y s, fun k => ?_, setReg_sameRegsBut s x _, setReg_frame s x _⟩,
    ⟨_, exec_andReg x y s, fun k => ?_, setReg_sameRegsBut s x _, setReg_frame s x _⟩,
    ⟨_, exec_xorReg x y s, fun k => ?_, setReg_sameRegsBut s x _, setReg_frame s x _⟩⟩
  · rw [setReg_reg_same, BitVec.getLsbD_or]
  · rw [setReg_reg_same, BitVec.getLsbD_and]
  · rw [setReg_reg_same, BitVec.getLsbD_xor]

/-- Settles O7: the drawn byte is whatever the port shows; nothing else of the input is read. -/
theorem randMasksAFreeByte : Obligations.RandMasksAFreeByte := by
  rintro s x kk r rfl
  refine ⟨_, exec_rand x kk s, fun k => ?_, setReg_sameRegsBut s x _, setReg_frame s x _⟩
  rw [setReg_reg_same, BitVec.getLsbD_and]

/-- Settles O28: each move is one write. -/
theorem timerMoves : Obligations.TimerMoves := fun s x =>
  ⟨⟨_, exec_loadDelay x s, setReg_reg_same s x _, setReg_sameRegsBut s x _, setReg_frame s x _⟩,
    ⟨_, exec_storeDelay x s, setDelay_dt s _, setDelay_frame s _⟩,
    ⟨_, exec_storeSound x s, setSound_st s _, setSound_frame s _⟩⟩

/-! ## The flag-writing instructions (R107 to R112) -/

theorem flagByte_toNat (b : Bool) : (flagByte b).toNat = if b then 1 else 0 := by
  cases b <;> rfl

theorem shrFlag_toNat (a : Byte) : (shrFlag a).toNat = a.toNat % 2 := by
  rw [shrFlag, flagByte_toNat, BitVec.getLsbD, Nat.testBit_zero]
  rcases Nat.mod_two_eq_zero_or_one a.toNat with h | h <;> simp [h]

/-- Bit 7 of a byte, as a number. -/
theorem testBit_seven_toNat (a : Byte) : (a.toNat.testBit 7).toNat = a.toNat / 128 := by
  rw [Nat.toNat_testBit]
  omega

/-- The raw flag is the masked bit, 128 times the normalised one (decision D6). -/
theorem shlFlag_toNat (normalised : Bool) (a : Byte) :
    (shlFlag normalised a).toNat = a.toNat / 128 * (if normalised then 1 else 128) := by
  cases normalised
  · have hmask : (a &&& 0x80#8).toNat = (a.toNat.testBit 7).toNat * 128 := Nat.and_two_pow a.toNat 7
    simpa [shlFlag, testBit_seven_toNat] using hmask
  · rw [← testBit_seven_toNat]
    cases h : a.toNat.testBit 7 <;> simp [shlFlag, flagByte_toNat, BitVec.getLsbD, h]

/-- What the two writes of a flag-writing instruction leave: the result in Vx, the flag in VF unless the result has
overwritten it (decision D5), and nothing else. -/
theorem writeFlagThenResult_effect (s : State) (x : Reg) (flag result : Byte) :
    (s.writeFlagThenResult x flag result).reg x = result ∧
    (x ≠ 0xF → (s.writeFlagThenResult x flag result).reg 0xF = flag) ∧
    sameRegsBut [x, 0xF] s (s.writeFlagThenResult x flag result) ∧
    Frame [.regs] s (s.writeFlagThenResult x flag result) := by
  refine ⟨?_, fun hx => ?_, writeFlagThenResult_sameRegsBut s x _ _, writeFlagThenResult_frame s x _ _⟩
  · rw [writeFlagThenResult_reg, if_pos rfl]
  · rw [writeFlagThenResult_reg, if_neg (Ne.symm hx), if_pos rfl]

/-- Settles O4: the sum of two bytes is taken modulo 256, and the flag compares the untruncated sum. -/
theorem addRegSumAndCarry : Obligations.AddRegSumAndCarry := by
  intro s x y
  obtain ⟨hx, hF, hregs, hframe⟩ := writeFlagThenResult_effect s x (carryFlag (s.reg x) (s.reg y)) (s.reg x + s.reg y)
  refine ⟨_, exec_addReg x y s, ?_, fun h => ?_, hregs, hframe⟩
  · rw [hx, BitVec.toNat_add]
  · rw [hF h, carryFlag, flagByte_toNat]
    simp only [decide_eq_true_eq]

theorem sub_byte_toNat (a b : Byte) : (a - b).toNat = (a.toNat + 256 - b.toNat) % 256 := by
  rw [BitVec.toNat_sub]
  omega

theorem greaterFlag_toNat (a b : Byte) : (greaterFlag a b).toNat = if a.toNat > b.toNat then 1 else 0 := by
  rw [greaterFlag, flagByte_toNat]
  simp only [decide_eq_true_eq]

/-- Settles O5: the two subtractions differ in the order of their operands only. -/
theorem subtractionsAndTheirFlags : Obligations.SubtractionsAndTheirFlags := by
  intro s x y
  refine ⟨?_, ?_⟩
  · obtain ⟨hx, hF, hregs, hframe⟩ :=
      writeFlagThenResult_effect s x (greaterFlag (s.reg x) (s.reg y)) (s.reg x - s.reg y)
    exact ⟨_, exec_subReg x y s, by rw [hx, sub_byte_toNat], fun h => by rw [hF h, greaterFlag_toNat], hregs, hframe⟩
  · obtain ⟨hx, hF, hregs, hframe⟩ :=
      writeFlagThenResult_effect s x (greaterFlag (s.reg y) (s.reg x)) (s.reg y - s.reg x)
    exact ⟨_, exec_subnReg x y s, by rw [hx, sub_byte_toNat], fun h => by rw [hF h, greaterFlag_toNat], hregs, hframe⟩

/-- Settles O6: the ignored `y` field takes no part; the flag is bit 0 (shr) or bit 7 (shl), raw or normalised. -/
theorem shiftsAndTheirFlags : Obligations.ShiftsAndTheirFlags := by
  intro s x y
  refine ⟨?_, ?_⟩
  · obtain ⟨hx, hF, hregs, hframe⟩ := writeFlagThenResult_effect s x (shrFlag (s.reg x)) (s.reg x >>> 1)
    refine ⟨_, exec_shr x y s, ?_, fun h => by rw [hF h, shrFlag_toNat], hregs, hframe⟩
    rw [hx, BitVec.toNat_ushiftRight, Nat.shiftRight_eq_div_pow, pow_one]
  · obtain ⟨hx, hF, hregs, hframe⟩ :=
      writeFlagThenResult_effect s x (shlFlag s.cfg.shlFlagNormalised (s.reg x)) (s.reg x <<< 1)
    refine ⟨_, exec_shl x y s, ?_, fun h => by rw [hF h, shlFlag_toNat], hregs, hframe⟩
    rw [hx, BitVec.toNat_shiftLeft, Nat.shiftLeft_eq, pow_one, Nat.mul_comm]

end Sys2Proof.Machine
end

section
/-! PROOF. Control flow (40_control_flow.md), the index register (42_index_memory.md section 1), the key skips and
await-key (44_keypad_timers.md section 1). -/

namespace Sys2Proof.Machine

/-! ## Stack and jumps -/

theorem exec_ret_nil {s : State} (h : s.stack = []) : exec .ret s = .next (s.raise .stackUnderflow) := by
  rw [exec_ret, State.popThen, h]

theorem exec_ret_cons {s : State} {w : Word} {rest : List Word} (h : s.stack = w :: rest) :
    exec .ret s = .next ((s.setStack rest).setPc w) := by
  rw [exec_ret, State.popThen, h]

theorem exec_call_room {s : State} (nnn : BitVec 12) (h : s.stackFull = false) :
    exec (.call nnn) s = .next ((s.setStack (s.pc :: s.stack)).setPc (zextAddr nnn)) := by
  rw [exec_call, State.pushThen, h]
  rfl

theorem exec_call_full {s : State} (nnn : BitVec 12) (h : s.stackFull = true) :
    exec (.call nnn) s = .next (s.raise .stackOverflow) := by
  rw [exec_call, State.pushThen, h]
  rfl

theorem setStack_setPc_frame (s : State) (l : List Word) (w : Word) : Frame [.pc, .stack] s ((s.setStack l).setPc w) :=
  ((setStack_frame s l).mono (by simp)).andThen (setPc_frame _ w) (by simp)

/-- Settles O8: the two cases of the stack. -/
theorem returnPopsOrUnderflows : Obligations.ReturnPopsOrUnderflows := fun s =>
  ⟨fun h => ⟨_, exec_ret_nil h, raise_mode s _, raise_frame s _⟩,
    fun w rest h => ⟨_, exec_ret_cons h, rfl, rfl, setStack_setPc_frame s rest w⟩⟩

/-- Settles O9: one write of `PC`. -/
theorem jumpSetsThePc : Obligations.JumpSetsThePc := fun s nnn =>
  ⟨_, exec_jump nnn s, zextAddr_toNat nnn, setPc_frame s _⟩

/-- Settles O10: there is room exactly when the stack is not full, and a stack at its capacity is full. -/
theorem callPushesOrOverflows : Obligations.CallPushesOrOverflows := by
  intro s nnn
  refine ⟨fun h => ?_, fun h => ?_⟩
  · have hroom := (stackFull_eq_false_iff s).mpr h
    exact ⟨_, exec_call_room nnn hroom, rfl, zextAddr_toNat nnn, setStack_setPc_frame s _ _⟩
  · have hfull := (stackFull_iff s).mpr ⟨_, h, le_rfl⟩
    exact ⟨_, exec_call_full nnn hfull, raise_mode s _, raise_frame s _⟩

/-- Settles O11: one write of `PC`; the sum fits 16 bits. -/
theorem jumpPlusV0AddsUnreduced : Obligations.JumpPlusV0AddsUnreduced := fun s nnn =>
  ⟨_, exec_jumpPlusV0 nnn s, zextAddr_add_zextByte_toNat nnn _, setPc_frame s _⟩

/-- Settles O14: the return pops the entry the call pushed, whatever else has changed in between. -/
theorem returnUndoesCall : Obligations.ReturnUndoesCall := by
  intro s nnn h
  have hroom := (stackFull_eq_false_iff s).mpr h
  refine ⟨_, exec_call_room nnn hroom, fun u hu => ?_⟩
  have hcons : u.stack = s.pc :: s.stack := hu
  exact ⟨_, exec_ret_cons hcons, rfl, rfl, setStack_setPc_frame u s.stack s.pc⟩

/-! ## Skips -/

/-- Settles O13: the low nibble takes no part. -/
theorem registerSkips : Obligations.RegisterSkips := by
  intro s x y low
  refine ⟨⟨_, exec_skipEqReg x y low s, ?_, skipIf_frame s _⟩, ⟨_, exec_skipNeReg x y low s, ?_, skipIf_frame s _⟩⟩
  · rw [skipIf_pc_toNat]
    simp
  · rw [skipIf_pc_toNat]
    simp

/-- The level of a key: what the port shows for a key below 16, and not held for the others (decision D9). -/
theorem keyHeld_eq {s : State} {k : Byte} {held : Bool} (hlt : ∀ h : k.toNat < 16, s.ports.keyHeld[k.toNat] = held)
    (hge : 16 ≤ k.toNat → held = false) : s.keyHeld k = held := by
  unfold State.keyHeld
  split
  · next h => exact hlt h
  · next h => exact (hge (not_lt.mp h)).symm

/-- Settles O25: the level of the key is the condition of the one skip and its negation that of the other. -/
theorem keySkips : Obligations.KeySkips := by
  intro s x held hlt hge
  have hheld := keyHeld_eq hlt hge
  refine ⟨⟨_, exec_skipKeyPressed x s, ?_, skipIf_frame s _⟩, ⟨_, exec_skipKeyNotPressed x s, ?_, skipIf_frame s _⟩⟩
  · rw [skipIf_pc_toNat, hheld]
  · rw [skipIf_pc_toNat, hheld]
    cases held <;> rfl

/-- Settles O26: one write of the mode; a `Step` event does nothing unless the mode is Running. -/
theorem awaitKeySuspends : Obligations.AwaitKeySuspends := by
  intro s x
  refine ⟨_, exec_awaitKey x s, setMode_mode s _, setMode_frame s _, fun u hu => ?_⟩
  rw [State.stepEvent, hu]

/-! ## The index register -/

theorem glyphAddr_toNat (b : Byte) : (glyphAddr b).toNat = 5 * b.toNat := by
  rw [glyphAddr, BitVec.toNat_ofNat]
  omega

/-- Settles O16: one write of `I` each; 5 times a byte fits 16 bits. -/
theorem indexArithmetic : Obligations.IndexArithmetic := by
  intro s x
  refine ⟨⟨_, exec_addIndex x s, ?_, setIndex_frame s _⟩, ⟨_, exec_loadFontAddr x s, ?_, setIndex_frame s _⟩⟩
  · rw [setIndex_i, BitVec.toNat_add, zextByte_toNat]
  · rw [setIndex_i, glyphAddr_toNat]

end Sys2Proof.Machine
end

section
/-! PROOF. Memory (20_memory.md) and the transfers between memory and the registers (42_index_memory.md section 2):
what an access that fits does, what one that does not fit does, and the round trip. -/

namespace Sys2Proof.Machine

/-! ## Accesses that fit and accesses that do not (R45) -/

theorem canAccess_iff (s : State) (addr : Word) (n : Nat) : canAccess s addr n ↔ accessOk s.cfg addr n = true := by
  rw [accessOk_iff, canAccess]
  cases s.cfg.oobPolicy
  · simp only [reduceCtorEq, false_or]
    omega
  · simp

/-- Only the parameters decide whether an access fits. -/
theorem canAccess.of_cfg {s u : State} {addr : Word} {n : Nat} (h : canAccess s addr n) (hcfg : u.cfg = s.cfg) :
    canAccess u addr n := by
  rw [canAccess_iff] at h ⊢
  rwa [hcfg]

theorem memReadThen_ok {s : State} {addr : Word} {n : Nat} (next : List Byte → State) (h : canAccess s addr n) :
    s.memReadThen addr n next = next (s.mem.bytesAt addr n) :=
  if_pos ((canAccess_iff s addr n).mp h)

theorem memReadThen_beyond {s : State} {addr : Word} {n : Nat} (next : List Byte → State) (h : ¬ canAccess s addr n) :
    s.memReadThen addr n next = s.raise (.memoryOutOfRange addr n) :=
  if_neg (fun e => h ((canAccess_iff s addr n).mpr e))

theorem memWrite_ok {s : State} {addr : Word} {bytes : List Byte} (h : canAccess s addr bytes.length) :
    s.memWrite addr bytes = s.setMem (s.mem.writeFrom addr 0 bytes) :=
  if_pos ((canAccess_iff s addr _).mp h)

theorem memWrite_beyond {s : State} {addr : Word} {bytes : List Byte} (h : ¬ canAccess s addr bytes.length) :
    s.memWrite addr bytes = s.raise (.memoryOutOfRange addr bytes.length) :=
  if_neg (fun e => h ((canAccess_iff s addr _).mpr e))

/-- Where it fits, the `k`-th byte of a store reads back at its address. -/
theorem memWrite_byte {s : State} {addr : Word} {bytes : List Byte} (h : canAccess s addr bytes.length)
    (hl : bytes.length ≤ memSize) (k : Nat) (hk : k < bytes.length) :
    (s.memWrite addr bytes).byte (byteAddr addr k) = bytes[k] := by
  rw [memWrite_ok h]
  simpa [State.byte] using s.mem.read_writeFrom addr 0 bytes hl k hk

theorem memWrite_ok_frame {s : State} {addr : Word} {bytes : List Byte} (h : canAccess s addr bytes.length) :
    Frame [.memory] s (s.memWrite addr bytes) := by
  rw [memWrite_ok h]
  exact setMem_frame s _

/-! ## The stores and the load -/

/-- A number at most a byte's value is the value of its own byte. -/
theorem ofNat_toNat_of_le {n : Nat} (a : Byte) (h : n ≤ a.toNat) : (BitVec.ofNat 8 n).toNat = n :=
  Nat.mod_eq_of_lt (h.trans_lt a.isLt)

/-- Settles O17: a store of three bytes that fits, whose bytes are the digits. -/
theorem storeBcdWritesTheDigits : Obligations.StoreBcdWritesTheDigits := by
  intro s x h
  have hbyte := memWrite_byte (bytes := bcdDigits (s.reg x)) h (by decide : 3 ≤ memSize)
  refine ⟨_, exec_storeBcd x s, ?_, ?_, ?_, fun a ha => memWrite_byte_other s s.i _ a ha, memWrite_ok_frame h⟩
  · rw [hbyte 0 (by decide : 0 < 3)]
    exact ofNat_toNat_of_le (s.reg x) (by omega)
  · rw [hbyte 1 (by decide : 1 < 3)]
    exact ofNat_toNat_of_le (s.reg x) (by omega)
  · rw [hbyte 2 (by decide : 2 < 3)]
    exact ofNat_toNat_of_le (s.reg x) (by omega)

/-- Settles O18: a store of x + 1 bytes that fits, whose `j`-th byte is Vj. -/
theorem storeRegsWritesTheRange : Obligations.StoreRegsWritesTheRange := by
  intro s x h
  rw [← regsThrough_length s x] at h
  have hl : (s.regsThrough x).length ≤ memSize := by
    rw [regsThrough_length]
    exact (Nat.succ_le_of_lt x.isLt).trans (by decide)
  refine ⟨_, exec_storeRegs x s, fun j hj => ?_, fun a ha => ?_, memWrite_ok_frame h⟩
  · have hlt : j.val < (s.regsThrough x).length := by
      rw [regsThrough_length]
      exact Nat.lt_succ_of_le hj
    rw [memWrite_byte h hl j.val hlt, regsThrough_getElem]
  · exact memWrite_byte_other s s.i _ a (by rwa [regsThrough_length])

/-- Settles O19: a read of x + 1 bytes that fits, whose `j`-th byte goes to Vj. -/
theorem loadRegsReadsTheRange : Obligations.LoadRegsReadsTheRange := by
  intro s x h
  refine ⟨_, (exec_loadRegs x s).trans (congrArg _ (memReadThen_ok _ h)), fun j hj => ?_, fun j hj => ?_,
    loadRegsFrom_frame s _⟩
  · rw [loadRegsFrom_bytesAt_reg, if_pos hj]
  · rw [loadRegsFrom_bytesAt_reg, if_neg (not_le.mpr hj)]

/-- Settles O20: the load reads, at the same addresses, the bytes the store wrote. -/
theorem storeRegsThenLoadRegsRestores : Obligations.StoreRegsThenLoadRegsRestores := by
  intro s x h
  obtain ⟨t, ht, hstored, -, -⟩ := storeRegsWritesTheRange s x h
  refine ⟨t, ht, fun u hmem hi hcfg => ?_⟩
  have hu : canAccess u u.i (x.val + 1) := hi ▸ h.of_cfg hcfg
  obtain ⟨r, hr, hloaded, hhigher, -⟩ := loadRegsReadsTheRange u x hu
  refine ⟨r, hr, fun j hj => ?_, hhigher⟩
  rw [hloaded j hj, hi, hmem, hstored j hj]

/-- Settles O21: each of the four raises before its read or write does anything. -/
theorem accessBeyondMemoryFaults : Obligations.AccessBeyondMemoryFaults := by
  intro s
  refine ⟨fun x y n h => ?_, fun x h => ?_, fun x h => ?_, fun x h => ?_⟩
  · exact ⟨_, (exec_draw x y n s).trans (congrArg _ (memReadThen_beyond _ h)), rfl, raise_frame s _⟩
  · have hbeyond := memWrite_beyond (bytes := bcdDigits (s.reg x)) h
    exact ⟨_, (exec_storeBcd x s).trans (congrArg _ hbeyond), rfl, raise_frame s _⟩
  · rw [← regsThrough_length s x] at h ⊢
    exact ⟨_, (exec_storeRegs x s).trans (congrArg _ (memWrite_beyond h)), rfl, raise_frame s _⟩
  · exact ⟨_, (exec_loadRegs x s).trans (congrArg _ (memReadThen_beyond _ h)), rfl, raise_frame s _⟩

/-! ## The fetch (R42) and self-modifying code -/

theorem fetchWord_toNat (s : State) :
    s.fetchWord.toNat = (s.byte (byteAddr s.pc 0)).toNat * 256 + (s.byte (byteAddr s.pc 1)).toNat :=
  wordOfBytes_toNat _ _

/-- Settles O33: below 0xFFF neither byte address wraps. -/
theorem fetchIsBigEndian : Obligations.FetchIsBigEndian := by
  intro s h
  rw [fetchWord_toNat, byteAddr_of_ok s.pc 2 0 (by omega) (by decide), byteAddr_of_ok s.pc 2 1 (by omega) (by decide),
    Nat.add_zero]

/-- Settles O48: the fetch reads the two addresses of the store, which moves no `PC`. -/
theorem storeIsSeenByTheNextFetch : Obligations.StoreIsSeenByTheNextFetch := by
  intro s hi lo h
  have hbyte := memWrite_byte (bytes := [hi, lo]) h (by decide : 2 ≤ memSize)
  have hpc : (s.memWrite s.pc [hi, lo]).pc = s.pc := memWrite_frame s s.pc [hi, lo] .pc (by simp)
  have h0 : (s.memWrite s.pc [hi, lo]).byte (byteAddr s.pc 0) = hi := hbyte 0 (by decide : 0 < 2)
  have h1 : (s.memWrite s.pc [hi, lo]).byte (byteAddr s.pc 1) = lo := hbyte 1 (by decide : 1 < 2)
  rw [State.fetchWord, hpc]
  exact congrArg₂ wordOfBytes h0 h1

/-! ## The canonical form has one memory for each reading -/

/-- The cells of a canonical memory after the first lie above it. -/
theorem Memory.read_tail_of_le {c : Host.Cell} {m : Memory} (h : Memory.wf (c :: m) = true) {a : Nat} (ha : a ≤ c.1) :
    Memory.read m a = Memory.unlisted := by
  obtain ⟨hsorted, -⟩ := (Memory.wf_iff _).mp h
  refine Memory.read_of_not_mem m a (fun d hd => ?_)
  have := List.rel_of_pairwise_cons hsorted hd
  omega

theorem Memory.read_of_lt_head {c : Host.Cell} {m : Memory} (h : Memory.wf (c :: m) = true) {a : Nat} (ha : a < c.1) :
    Memory.read (c :: m) a = Memory.unlisted := by
  rw [Memory.read_cons, if_neg (by omega), Memory.read_tail_of_le h ha.le]

theorem Memory.read_head (c : Host.Cell) (m : Memory) : Memory.read (c :: m) c.1 = c.2 := by
  rw [Memory.read_cons, if_pos rfl]

theorem Memory.head_ne_unlisted {c : Host.Cell} {m : Memory} (h : Memory.wf (c :: m) = true) : c.2 ≠ Memory.unlisted :=
  (((Memory.wf_iff _).mp h).2 c (by simp)).2

theorem Memory.wf_tail {c : Host.Cell} {m : Memory} (h : Memory.wf (c :: m) = true) : m.wf = true := by
  rw [Memory.wf_iff] at h ⊢
  exact ⟨h.1.of_cons, fun d hd => h.2 d (List.mem_cons_of_mem c hd)⟩

/-- A first cell that another memory's first cell lies above would be unlisted there. -/
theorem Memory.head_le_head {c d : Host.Cell} {m n : Memory} (hm : Memory.wf (c :: m) = true)
    (hn : Memory.wf (d :: n) = true) (h : ∀ a, Memory.read (c :: m) a = Memory.read (d :: n) a) : d.1 ≤ c.1 := by
  by_contra hlt
  have hc := h c.1
  rw [Memory.read_head, Memory.read_of_lt_head hn (not_le.mp hlt)] at hc
  exact Memory.head_ne_unlisted hm hc

/-- Settles O47: by induction on the two lists. Neither can end before the other, their first cells have the same
address (each is the lowest listed one) and so the same byte, and the rest reads the same everywhere. -/
theorem canonicalMemoriesAreEqual : Obligations.CanonicalMemoriesAreEqual := by
  intro m
  induction m with
  | nil =>
    intro n _ hn h
    cases n with
    | nil => rfl
    | cons d n => exact absurd ((Memory.read_head d n).symm.trans (h d.1).symm) (Memory.head_ne_unlisted hn)
  | cons c m ih =>
    intro n hm hn h
    cases n with
    | nil => exact absurd ((Memory.read_head c m).symm.trans (h c.1)) (Memory.head_ne_unlisted hm)
    | cons d n =>
      have haddr : c.1 = d.1 := (Memory.head_le_head hn hm (fun a => (h a).symm)).antisymm (Memory.head_le_head hm hn h)
      have hbyte : c.2 = d.2 := by
        rw [← Memory.read_head c m, h c.1, haddr, Memory.read_head]
      have hcd : c = d := Prod.ext haddr hbyte
      subst hcd
      have htail : m = n := by
        refine ih n (Memory.wf_tail hm) (Memory.wf_tail hn) (fun a => ?_)
        by_cases ha : a ≤ c.1
        · rw [Memory.read_tail_of_le hm ha, Memory.read_tail_of_le hn ha]
        · have hne : c.1 ≠ a := by omega
          simpa [Memory.read_cons, hne] using h a
      rw [htail]

end Sys2Proof.Machine
end

section
/-! PROOF. draw (43_display.md R140 to R144): no cell is named twice by a sprite of at most 32 rows, so each covered
cell is inverted once and the collision flag speaks of the display before the draw. -/

namespace Sys2Proof.Machine

/-! ## Cells -/

/-- The cell of a coordinate: column and row after the wrap (R143). -/
def cellOf (p : Nat × Nat) : Fin 64 × Fin 32 := (wrapCol p.1, wrapRow p.2)

theorem sameCell_iff (p q : Nat × Nat) : sameCell p q = true ↔ cellOf p = cellOf q := by
  simp [sameCell, cellOf]

theorem cellOf_cell (r : Fin 32) (c : Fin 64) : cellOf (c.val, r.val) = (c, r) := by
  simp [cellOf, wrapCol, wrapRow]

theorem cellOf_eq_iff (x y : Nat) (r : Fin 32) (c : Fin 64) :
    cellOf (x, y) = (c, r) ↔ y % 32 = r.val ∧ x % 64 = c.val := by
  simp [cellOf, wrapCol, wrapRow, Fin.ext_iff, and_comm]

theorem Display.pixel_cell (d : Display) (r : Fin 32) (c : Fin 64) : d.pixel c.val r.val = d[r][c] := by
  simp [Display.pixel, wrapCol, wrapRow]

/-- Coordinates of one cell have one pixel. -/
theorem Display.pixel_congr (d : Display) {p q : Nat × Nat} (h : cellOf p = cellOf q) :
    d.pixel p.1 p.2 = d.pixel q.1 q.2 :=
  congrArg (fun cell : Fin 64 × Fin 32 => d[cell.2][cell.1]) h

/-! ## The cells of a sprite -/

/-- The set bits of one row lie in different columns: eight columns do not reach around the display. -/
theorem nodup_cells_row (x0 y0 : Nat) (row : Byte) :
    (((setColumns row).map (fun c => (x0 + c, y0))).map cellOf).Nodup := by
  rw [List.map_map]
  refine (List.nodup_range.filter _).map_on (fun a ha b hb hab => ?_)
  have ha8 : a < 8 := List.mem_range.mp (List.mem_filter.mp ha).1
  have hb8 : b < 8 := List.mem_range.mp (List.mem_filter.mp hb).1
  have hmod : (x0 + a) % 64 = (x0 + b) % 64 := congrArg (fun q => q.1.val) hab
  omega

/-- A sprite of at most 32 rows names no cell twice. -/
theorem nodup_cells_spritePixels (x0 y0 : Nat) (rows : List Byte) (hrows : rows.length ≤ 32) :
    ((spritePixels x0 y0 rows).map cellOf).Nodup := by
  induction rows generalizing y0 with
  | nil => simp [spritePixels]
  | cons row rows ih =>
    have hlen : rows.length + 1 ≤ 32 := by simpa using hrows
    rw [spritePixels, List.map_append, List.nodup_append']
    refine ⟨nodup_cells_row x0 y0 row, ih (y0 + 1) (by omega), ?_⟩
    intro cell hfirst hrest
    obtain ⟨p, hp, rfl⟩ := List.mem_map.mp hfirst
    obtain ⟨q, hq, hqp⟩ := List.mem_map.mp hrest
    obtain ⟨c, -, rfl⟩ := List.mem_map.mp hp
    obtain ⟨r, c', hr, -, -, rfl⟩ := (mem_spritePixels x0 (y0 + 1) rows q).mp hq
    have hmod : (y0 + 1 + r) % 32 = y0 % 32 := congrArg (fun q => q.2.val) hqp
    omega

/-! ## Toggling a list of different cells -/

/-- Toggling different cells inverts exactly the named ones. -/
theorem Display.pixel_toggleAll_nodup (d : Display) (ps : List (Nat × Nat)) (h : (ps.map cellOf).Nodup)
    (q : Nat × Nat) :
    (d.toggleAll ps).1.pixel q.1 q.2 = (d.pixel q.1 q.2 ^^ decide (cellOf q ∈ ps.map cellOf)) := by
  have hcount : ps.countP (fun p => sameCell p q) = (ps.map cellOf).count (cellOf q) := by
    rw [List.count, List.countP_map]
    refine List.countP_congr (fun p _ => ?_)
    simp [sameCell_iff]
  rw [Display.pixel_toggleAll, hcount, h.count]
  by_cases hq : cellOf q ∈ ps.map cellOf <;> simp [hq]

/-- Toggling different cells collides exactly when one of them was on before: no toggle sees another's work. -/
theorem Display.toggleAll_collides_iff (d : Display) (ps : List (Nat × Nat)) (h : (ps.map cellOf).Nodup) :
    (d.toggleAll ps).2 = true ↔ ∃ p ∈ ps, d.pixel p.1 p.2 = true := by
  induction ps generalizing d with
  | nil => simp [Display.toggleAll]
  | cons p ps ih =>
    obtain ⟨hp, hps⟩ := List.nodup_cons.mp h
    have hflip : ∀ q ∈ ps, (d.flip p.1 p.2).pixel q.1 q.2 = d.pixel q.1 q.2 := by
      intro q hq
      have hne : sameCell (p.1, p.2) (q.1, q.2) ≠ true := fun e => hp ((sameCell_iff p q).mp e ▸ List.mem_map_of_mem hq)
      rw [Display.pixel_flip, if_neg hne]
    rw [Display.toggleAll_cons, Bool.or_eq_true, ih _ hps, List.exists_mem_cons_iff]
    refine or_congr_right (exists_congr fun q => and_congr_right fun hq => ?_)
    rw [hflip q hq]

/-- Toggling the same list twice restores the display. -/
theorem Display.toggleAll_toggleAll (d : Display) (ps : List (Nat × Nat)) :
    ((d.toggleAll ps).1.toggleAll ps).1 = d := by
  refine Display.ext_pixel _ _ (fun px py => ?_)
  rw [Display.pixel_toggleAll, Display.pixel_toggleAll, Bool.xor_assoc, Bool.xor_self, Bool.xor_false]

/-! ## The sprite a draw reads -/

/-- The coordinates a draw toggles: the `n` rows at `I`, drawn at column `x0` and row `y0`. -/
def drawnPixels (s : State) (x0 y0 : Byte) (n : Nat) : List (Nat × Nat) :=
  spritePixels x0.toNat y0.toNat (s.mem.bytesAt s.i n)

/-- The state a draw that fits leaves. -/
theorem exec_draw_ok {s : State} {n : Fin 16} (x y : Reg) (h : canAccess s s.i n.val) : exec (.draw x y n) s =
    .next ((s.setDisp (s.disp.toggleAll (drawnPixels s (s.reg x) (s.reg y) n.val)).1).setReg 0xF
      (flagByte (s.disp.toggleAll (drawnPixels s (s.reg x) (s.reg y) n.val)).2)) :=
  (exec_draw x y n s).trans (congrArg _ (memReadThen_ok _ h))

theorem mem_drawnPixels (s : State) (x0 y0 : Byte) (n : Nat) (p : Nat × Nat) : p ∈ drawnPixels s x0 y0 n ↔
    ∃ k j, k < n ∧ j < 8 ∧ (s.byte (byteAddr s.i k)).getLsbD (7 - j) = true ∧ p = (x0.toNat + j, y0.toNat + k) := by
  have hrow : ∀ k (hk : k < (s.mem.bytesAt s.i n).length), (s.mem.bytesAt s.i n)[k] = s.byte (byteAddr s.i k) := by
    intro k hk
    simp [Memory.bytesAt, State.byte]
  rw [drawnPixels, mem_spritePixels]
  constructor
  · rintro ⟨k, j, hk, hj, hbit, rfl⟩
    rw [hrow k hk] at hbit
    exact ⟨k, j, by simpa using hk, hj, hbit, rfl⟩
  · rintro ⟨k, j, hk, hj, hbit, rfl⟩
    refine ⟨k, j, by simpa using hk, hj, ?_, rfl⟩
    rwa [hrow]

theorem nodup_cells_drawnPixels (s : State) (x0 y0 : Byte) (n : Fin 16) :
    ((drawnPixels s x0 y0 n.val).map cellOf).Nodup :=
  nodup_cells_spritePixels _ _ _ (by rw [Memory.bytesAt_length]; omega)

/-- The covered cells are the cells of the drawn pixels. -/
theorem spriteCovers_iff (s : State) (x0 y0 : Byte) (n : Nat) (r : Fin 32) (c : Fin 64) :
    spriteCovers s x0 y0 n r c ↔ (c, r) ∈ (drawnPixels s x0 y0 n).map cellOf := by
  rw [List.mem_map]
  constructor
  · rintro ⟨k, j, hk, hj, hrow, hcol, hbit⟩
    exact ⟨_, (mem_drawnPixels s x0 y0 n _).mpr ⟨k, j, hk, hj, hbit, rfl⟩, (cellOf_eq_iff _ _ r c).mpr ⟨hrow, hcol⟩⟩
  · rintro ⟨p, hp, hcell⟩
    obtain ⟨k, j, hk, hj, hbit, rfl⟩ := (mem_drawnPixels s x0 y0 n p).mp hp
    obtain ⟨hrow, hcol⟩ := (cellOf_eq_iff _ _ r c).mp hcell
    exact ⟨k, j, hk, hj, hrow, hcol, hbit⟩

/-- A draw inverts the covered cells. -/
theorem drawn_cell (s : State) (x0 y0 : Byte) (n : Fin 16) (r : Fin 32) (c : Fin 64) :
    (s.disp.toggleAll (drawnPixels s x0 y0 n.val)).1[r][c] =
      (s.disp[r][c] ^^ decide ((c, r) ∈ (drawnPixels s x0 y0 n.val).map cellOf)) := by
  rw [← Display.pixel_cell, ← Display.pixel_cell, ← cellOf_cell r c]
  exact Display.pixel_toggleAll_nodup _ _ (nodup_cells_drawnPixels s x0 y0 n) (c.val, r.val)

/-- A draw collides exactly when a covered cell was on. -/
theorem drawn_collides_iff (s : State) (x0 y0 : Byte) (n : Fin 16) :
    (s.disp.toggleAll (drawnPixels s x0 y0 n.val)).2 = true ↔
      ∃ r c, spriteCovers s x0 y0 n.val r c ∧ s.disp[r][c] = true := by
  rw [Display.toggleAll_collides_iff _ _ (nodup_cells_drawnPixels s x0 y0 n)]
  constructor
  · rintro ⟨p, hp, hon⟩
    exact ⟨(cellOf p).2, (cellOf p).1, (spriteCovers_iff ..).mpr (List.mem_map_of_mem hp), hon⟩
  · rintro ⟨r, c, hcov, hon⟩
    obtain ⟨p, hp, hcell⟩ := List.mem_map.mp ((spriteCovers_iff ..).mp hcov)
    refine ⟨p, hp, ?_⟩
    rw [Display.pixel_congr _ (hcell.trans (cellOf_cell r c).symm), Display.pixel_cell]
    exact hon

theorem flagByte_eq_one_iff (b : Bool) : flagByte b = 1 ↔ b = true := by
  cases b <;> decide

theorem flagByte_eq_zero_iff (b : Bool) : flagByte b = 0 ↔ b = false := by
  cases b <;> decide

/-- Settles O23: the drawn pixels name each covered cell once, so it is inverted once, and a collision is a covered cell
that was on before. -/
theorem drawInvertsTheSpriteCells : Obligations.DrawInvertsTheSpriteCells := by
  intro s x y n h
  refine ⟨_, exec_draw_ok x y h, fun r c => ⟨fun hcov => ?_, fun hcov => ?_⟩, fun hon => ?_, fun hoff => ?_,
    setReg_sameRegsBut (s.setDisp _) 0xF _, drawRows_frame s (s.reg x) (s.reg y) (s.mem.bytesAt s.i n.val)⟩
  · rw [setReg_disp, setDisp_disp, drawn_cell, decide_eq_true ((spriteCovers_iff ..).mp hcov), Bool.xor_true]
  · rw [setReg_disp, setDisp_disp, drawn_cell, decide_eq_false (fun e => hcov ((spriteCovers_iff ..).mpr e)),
      Bool.xor_false]
  · rw [setReg_reg_same, flagByte_eq_one_iff]
    exact (drawn_collides_iff s _ _ n).mpr hon
  · rw [setReg_reg_same, flagByte_eq_zero_iff, ← Bool.not_eq_true, drawn_collides_iff]
    rintro ⟨r, c, hcov, hon⟩
    exact absurd ((hoff r c hcov).symm.trans hon) Bool.false_ne_true

/-- The same bytes at the same `I` are the same sprite. -/
theorem drawnPixels_congr {s u : State} (x0 y0 : Byte) (n : Nat) (hmem : ∀ a, u.byte a = s.byte a) (hi : u.i = s.i) :
    drawnPixels u x0 y0 n = drawnPixels s x0 y0 n := by
  have hbytes : u.mem.bytesAt s.i n = s.mem.bytesAt s.i n := List.map_congr_left (fun j _ => hmem _)
  rw [drawnPixels, drawnPixels, hi, hbytes]

/-- The drawn pixels are none exactly when the sprite has no set bit. -/
theorem exists_mem_drawnPixels_iff (s : State) (x0 y0 : Byte) (n : Nat) : (∃ p, p ∈ drawnPixels s x0 y0 n) ↔
    ∃ k j, k < n ∧ j < 8 ∧ (s.byte (byteAddr s.i k)).getLsbD j = true := by
  simp only [mem_drawnPixels]
  constructor
  · rintro ⟨p, k, j, hk, hj, hbit, -⟩
    exact ⟨k, 7 - j, hk, by omega, hbit⟩
  · rintro ⟨k, j, hk, hj, hbit⟩
    have hj7 : 7 - (7 - j) = j := by omega
    exact ⟨_, k, 7 - j, hk, by omega, by rwa [hj7], rfl⟩

/-- Settles O24: the second draw toggles the same pixels, which restores the display. From a clear display the first
draw finds every pixel off; it turns each on, once, so the second collides wherever there is one. -/
theorem drawTwiceRestoresTheDisplay : Obligations.DrawTwiceRestoresTheDisplay := by
  intro s x y n h
  refine ⟨_, exec_draw_ok x y h, fun u hdisp hmem hi hcfg hx hy => ?_⟩
  have hu : canAccess u u.i n.val := hi ▸ h.of_cfg hcfg
  refine ⟨_, exec_draw_ok x y hu, ?_, fun hclear => ⟨?_, ?_⟩⟩
  · rw [setReg_disp, setDisp_disp, hdisp, hx, hy, drawnPixels_congr _ _ _ hmem hi]
    exact Display.toggleAll_toggleAll _ _
  · rw [setReg_reg_same, flagByte_eq_zero_iff, ← Bool.not_eq_true, drawn_collides_iff]
    rintro ⟨r, c, -, hon⟩
    exact absurd ((hclear r c).symm.trans hon) Bool.false_ne_true
  · have hnodup := nodup_cells_drawnPixels s (s.reg x) (s.reg y) n
    rw [setReg_reg_same, flagByte_eq_one_iff, hdisp, hx, hy, drawnPixels_congr _ _ _ hmem hi, setReg_disp, setDisp_disp,
      Display.toggleAll_collides_iff _ _ hnodup, ← exists_mem_drawnPixels_iff s (s.reg x) (s.reg y)]
    refine exists_congr fun p => and_iff_left_of_imp fun hp => ?_
    have hoff : s.disp.pixel p.1 p.2 = false := hclear _ _
    rw [Display.pixel_toggleAll_nodup _ _ hnodup, hoff, decide_eq_true (List.mem_map_of_mem hp)]
    rfl

end Sys2Proof.Machine
end

section
/-! PROOF. The events (60_exceptions.md, 70_reset_and_hazards.md section 3): the timer tick, the key press, the `Step`
event, and which of them a turn takes. -/

namespace Sys2Proof.Machine

/-! ## The timer tick (60_exceptions.md R181) -/

theorem countDown_toNat (b : Byte) : (countDown b).toNat = b.toNat - 1 := by
  unfold countDown
  split
  · next h => rw [h]; rfl
  · next h =>
    have hpos : b.toNat ≠ 0 := fun e => h (BitVec.eq_of_toNat_eq e)
    have := b.isLt
    rw [BitVec.toNat_sub, BitVec.toNat_ofNat]
    omega

theorem timersRun_iff (s : State) : s.timersRun = true ↔
    s.mode = .running ∨ (∃ x, s.mode = .awaitingKey x) ∧ s.cfg.timersRunWhileAwaiting = true := by
  unfold State.timersRun
  cases s.mode <;> simp

theorem countTimers_frame (s : State) : Frame [.delay, .sound] s s.countTimers := by
  obtain e | e := countTimers_cases s <;> rw [e]
  · exact ((setDelay_frame s _).mono (by simp)).andThen (setSound_frame _ _) (by simp)
  · exact Frame.refl _ s

theorem driveOutputs_frame (s : State) : Frame [.tone, .sequencer] s s.driveOutputs :=
  ((setTone_frame s _).mono (by simp)).andThen (setPaint_frame _ _) (by simp)

theorem timerTick_frame (s : State) : Frame [.delay, .sound, .tone, .sequencer] s s.timerTick := by
  obtain ⟨-, e⟩ | ⟨-, e⟩ := timerTick_cases s <;> rw [e]
  · exact Frame.refl _ s
  · exact ((countTimers_frame s).mono (by simp)).andThen (driveOutputs_frame _) (by simp)

theorem timerTick_of_faulted {s : State} {f : Fault} (h : s.mode = .faulted f) : s.timerTick = s := by
  rw [State.timerTick, h]

theorem timerTick_of_not_faulted {s : State} (h : ∀ f, s.mode ≠ .faulted f) :
    s.timerTick = s.countTimers.driveOutputs := by
  obtain ⟨⟨f, hf⟩, -⟩ | ⟨-, e⟩ := timerTick_cases s
  · exact absurd hf (h f)
  · exact e

/-- A tick of a machine that has not faulted leaves the timers and the tone of one tick, and pulses the paint request.
-/
theorem timerTick_timersTicked {s : State} (h : ∀ f, s.mode ≠ .faulted f) :
    timersTicked s s.timerTick ∧ s.timerTick.paintRequest = true := by
  rw [timerTick_of_not_faulted h]
  refine ⟨⟨fun hrun => ?_, fun hawait hoff => ?_, bne_iff_ne⟩, rfl⟩
  · have hcount : s.countTimers = (s.setDelay (countDown s.dt)).setSound (countDown s.st) :=
      if_pos ((timersRun_iff s).mpr hrun)
    rw [hcount]
    exact ⟨countDown_toNat s.dt, countDown_toNat s.st⟩
  · have hstill : ¬ s.timersRun = true := by
      obtain ⟨x, hx⟩ := hawait
      simp [timersRun_iff, hx, hoff]
    have hcount : s.countTimers = s := if_neg hstill
    rw [hcount]
    exact ⟨rfl, rfl⟩

/-- Settles O29: the tick of a machine that has not faulted, and the identity after a fault. -/
theorem timerTickCountsDown : Obligations.TimerTickCountsDown := by
  intro s
  refine ⟨fun hrun => ?_, fun hawait hoff => ?_, fun h => ?_, fun ⟨f, hf⟩ => timerTick_of_faulted hf⟩
  · have h : ∀ f, s.mode ≠ .faulted f := by
      rintro f hf
      obtain hm | ⟨⟨x, hm⟩, -⟩ := hrun <;> rw [hf] at hm <;> cases hm
    obtain ⟨⟨hcount, -, -⟩, -⟩ := timerTick_timersTicked h
    exact hcount hrun
  · have h : ∀ f, s.mode ≠ .faulted f := by
      obtain ⟨x, hm⟩ := hawait
      rintro f hf
      rw [hf] at hm
      cases hm
    obtain ⟨⟨-, hstill, -⟩, -⟩ := timerTick_timersTicked h
    exact hstill hawait hoff
  · obtain ⟨⟨-, -, htone⟩, hpaint⟩ := timerTick_timersTicked h
    obtain ⟨-, -, -, -, -, -, -, hpos, -⟩ := timerTick_keeps s
    exact ⟨htone, hpaint, hpos, timerTick_frame s⟩

/-! ## The `Step` event (30_encoding.md R64) -/

theorem stepEvent_of_not_running {s : State} (h : s.mode ≠ .running) : s.stepEvent = .next s := by
  obtain ⟨-, e⟩ | ⟨hm, -⟩ | ⟨hm, -⟩ | ⟨hm, -⟩ := stepEvent_cases s
  · exact e
  all_goals exact absurd hm h

theorem stepEvent_beyond {s : State} (hm : s.mode = .running) (h : ¬ canAccess s s.pc 2) :
    s.stepEvent = .next (s.raise (.memoryOutOfRange s.pc 2)) := by
  rw [State.stepEvent, hm]
  exact if_neg (fun e => h ((canAccess_iff s s.pc 2).mpr e))

theorem stepEvent_fetched {s : State} (hm : s.mode = .running) (h : canAccess s s.pc 2) :
    s.stepEvent = runWord s.fetchWord s.advancePc := by
  rw [State.stepEvent, hm]
  exact if_pos ((canAccess_iff s s.pc 2).mp h)

theorem runWord_error {w : Word} {e : DecodeError} (h : decodeWord w = .error e) (s : State) :
    runWord w s = .next (s.raise (.unknownOpcode w)) := by
  rw [runWord, h]

theorem runWord_ok {w : Word} {i : Instr} (h : decodeWord w = .ok i) (s : State) : runWord w s = exec i s := by
  rw [runWord, h]

theorem advancePc_pc_toNat (s : State) : s.advancePc.pc.toNat = (s.pc.toNat + 2) % 65536 := by
  rw [advancePc_pc, BitVec.toNat_add]
  rfl

theorem advancePc_raise_frame (s : State) (f : Fault) : Frame [.mode, .pc] s (s.advancePc.raise f) :=
  ((advancePc_frame s).mono (by simp)).andThen (raise_frame _ f) (by simp)

/-- Settles O31: the mode, the fetch and the decode decide between the four outcomes; the word is the fetched one,
since it has the same value. -/
theorem stepCycle : Obligations.StepCycle := by
  intro s
  refine ⟨stepEvent_of_not_running, fun hm h => ⟨_, stepEvent_beyond hm h, rfl, raise_frame s _⟩, fun hm h w hw => ?_⟩
  obtain rfl : w = s.fetchWord := BitVec.eq_of_toNat_eq (hw.trans (fetchWord_toNat s).symm)
  rw [stepEvent_fetched hm h]
  exact ⟨fun e he => ⟨_, runWord_error he _, rfl, advancePc_pc_toNat s, advancePc_raise_frame s _⟩,
    fun i hi => ⟨_, runWord_ok hi _, advancePc_pc_toNat s, advancePc_frame s⟩⟩

/-! ## Which event a turn takes (70_reset_and_hazards.md R207, 60_exceptions.md R183) -/

theorem frameDue_iff (s : State) : s.frameDue ↔ s.frameOn = true := by
  simp [State.frameDue, State.frameOn, Nat.pos_iff_ne_zero]

theorem sequencerEvent_of_not_due {s : State} (h : ¬ s.frameDue) : s.sequencerEvent = none := by
  rw [frameDue_iff] at h
  exact if_neg h

theorem sequencerEvent_of_slot {s : State} (hdue : s.frameDue) (hslot : s.batchPos < s.cfg.stepsPerFrame) :
    s.sequencerEvent = some .step := by
  rw [State.sequencerEvent, if_pos ((frameDue_iff s).mp hdue), if_pos hslot]

theorem sequencerEvent_of_used_up {s : State} (hdue : s.frameDue) (hused : s.cfg.stepsPerFrame ≤ s.batchPos) :
    s.sequencerEvent = some .timerTick := by
  rw [State.sequencerEvent, if_pos ((frameDue_iff s).mp hdue), if_neg (not_lt.mpr hused)]

/-- Where no key press takes the turn, the turn is the sequencer's. -/
theorem nextEvent_of_noPressTaken {s : State} (h : ∀ f, s.mode ≠ .faulted f) (hpress : s.noPressTaken) :
    s.nextEvent = s.sequencerEvent := by
  obtain ⟨⟨f, hf⟩, -⟩ | ⟨x, k, hx, hk, hfirst, -⟩ | ⟨-, -, e⟩ := nextEvent_cases s
  · exact absurd hf (h f)
  · exfalso
    obtain hno | hno | ⟨hlast, hdue⟩ := hpress
    · exact hno x hx
    · rw [hno] at hk; cases hk
    · rw [frameDue_iff] at hdue
      simp [hlast, hdue] at hfirst
  · exact e

theorem nextEvent_of_press {s : State} {x : Reg} {k : Key} (hm : s.mode = .awaitingKey x)
    (hk : s.ports.keyPress = some k) (hfirst : s.ports.keyFirst = true ∨ ¬ s.frameDue) :
    s.nextEvent = some (.keyPress k) := by
  rw [State.nextEvent, hm]
  show s.awaitingEvent = _
  rw [State.awaitingEvent, hk]
  refine if_pos ?_
  obtain h | h := hfirst
  · simp [h]
  · simp [sequencerEvent_of_not_due h]

/-! ## What the turn then does -/

theorem step_of_none {s : State} (h : s.nextEvent = none) : step s = .next s.idle := by
  rw [step, State.runEvent, h]

theorem step_of_press {s : State} {k : Key} (h : s.nextEvent = some (.keyPress k)) :
    step s = .next ((s.setPaint false).keyPress k).sampleInputs := by
  rw [step, State.runEvent, h]

theorem step_of_tick {s : State} (h : s.nextEvent = some .timerTick) :
    step s = .next s.endBatch.timerTick.sampleInputs := by
  rw [step, State.runEvent, h]

theorem step_of_slot {s : State} (h : s.nextEvent = some .step) :
    step s = onNext State.sampleInputs s.takeSlot.stepEvent := by
  rw [step, State.runEvent, h]

theorem endBatch_timerTick_sampleInputs_frame (s : State) :
    Frame [.delay, .sound, .tone, .sequencer, .inputs] s s.endBatch.timerTick.sampleInputs := by
  have htick : Frame [.delay, .sound, .tone, .sequencer] s s.endBatch.timerTick :=
    ((endBatch_frame s).mono (by simp)).andThen (timerTick_frame _) (by simp)
  exact (htick.mono (by simp)).andThen (sampleInputs_frame _) (by simp)

/-- Settles O57: the sequencer's event is none, a step slot or the tick; each turn then does what its event does. -/
theorem sequencerTakesSlotsThenTicks : Obligations.SequencerTakesSlotsThenTicks := by
  intro s h hpress
  have hev := nextEvent_of_noPressTaken h hpress
  refine ⟨fun hdue => ?_, fun hdue hslot => ?_, fun hdue hused => ?_⟩
  · rw [sequencerEvent_of_not_due hdue] at hev
    exact ⟨_, step_of_none hev, idle_batchPos s, idle_frame s⟩
  · rw [sequencerEvent_of_slot hdue hslot] at hev
    exact step_of_slot hev
  · rw [sequencerEvent_of_used_up hdue hused] at hev
    obtain ⟨hticked, hpaint⟩ := timerTick_timersTicked (s := s.endBatch) h
    obtain ⟨-, -, -, -, -, -, -, hpos, -⟩ := timerTick_keeps s.endBatch
    exact ⟨_, step_of_tick hev, hpos, hticked, hpaint, endBatch_timerTick_sampleInputs_frame s⟩

theorem noPressTaken_of_running {s : State} (h : s.mode = .running) : s.noPressTaken :=
  .inl (fun x e => by rw [h] at e; cases e)

theorem not_faulted_of_running {s : State} (h : s.mode = .running) : ∀ f, s.mode ≠ .faulted f :=
  fun f e => by rw [h] at e; cases e

theorem not_faulted_of_awaiting {s : State} {x : Reg} (h : s.mode = .awaitingKey x) : ∀ f, s.mode ≠ .faulted f :=
  fun f e => by rw [h] at e; cases e

/-- A step slot changes the batch position, the inputs, and what its `Step` event changes. -/
theorem slot_frame {s u : State} {l : List Piece} (h : Frame l s.takeSlot u) (hseq : Piece.sequencer ∈ l)
    (hin : Piece.inputs ∈ l) : Frame l s u.sampleInputs :=
  (((takeSlot_frame s).mono (by simpa using hseq)).trans h).andThen (sampleInputs_frame u) (by simpa using hin)

/-- Settles O32: a running machine's slot is the `Step` event of the state whose slot is taken (O57), which fetches the
same word as `s` does. -/
theorem stepRunsTheDecodedInstruction : Obligations.StepRunsTheDecodedInstruction := by
  intro s hm hdue hslot
  obtain ⟨-, hstep, -⟩ := sequencerTakesSlotsThenTicks s (not_faulted_of_running hm) (noPressTaken_of_running hm)
  rw [hstep hdue hslot]
  refine ⟨rfl, fun h => ?_, fun h e he => ?_, fun h i hi => ?_⟩
  · rw [stepEvent_beyond (s := s.takeSlot) hm h]
    exact ⟨_, rfl, rfl, slot_frame ((raise_frame _ _).mono (by simp)) (by simp) (by simp)⟩
  · rw [stepEvent_fetched (s := s.takeSlot) hm h]
    have hrun : runWord s.takeSlot.fetchWord s.takeSlot.advancePc = .next _ := runWord_error he _
    rw [hrun]
    exact ⟨_, rfl, rfl, advancePc_pc_toNat s,
      slot_frame ((advancePc_raise_frame _ _).mono (by simp)) (by simp) (by simp)⟩
  · rw [stepEvent_fetched (s := s.takeSlot) hm h]
    exact congrArg _ (runWord_ok (w := s.takeSlot.fetchWord) hi _)

/-- Settles O34: the slot is taken (O57), and its `Step` event does nothing. -/
theorem awaitingSlotsAreUsedUp : Obligations.AwaitingSlotsAreUsedUp := by
  intro s x hm hpress hdue hslot
  have hno : s.noPressTaken := hpress.elim (fun h => .inr (.inl h)) (fun h => .inr (.inr ⟨h, hdue⟩))
  obtain ⟨-, hstep, -⟩ := sequencerTakesSlotsThenTicks s (not_faulted_of_awaiting hm) hno
  have hnot : s.takeSlot.mode ≠ .running := fun e => by
    rw [takeSlot_mode, hm] at e
    cases e
  rw [hstep hdue hslot, stepEvent_of_not_running hnot]
  exact ⟨_, rfl, rfl, rfl, slot_frame (Frame.refl _ _) (by simp) (by simp)⟩

/-! ## The key press (44_keypad_timers.md R153) -/

theorem zextKey_toNat (k : Key) : (zextKey k).toNat = k.val :=
  Nat.mod_eq_of_lt (k.isLt.trans (by decide))

theorem keyPress_of_awaiting {s : State} {x : Reg} (h : s.mode = .awaitingKey x) (k : Key) :
    s.keyPress k = (s.setReg x (zextKey k)).setMode .running := by
  rw [State.keyPress, h]

theorem keyPress_of_not_awaiting {s : State} (h : ∀ x, s.mode ≠ .awaitingKey x) (k : Key) : s.keyPress k = s := by
  obtain ⟨x, hx, -⟩ | ⟨-, e⟩ := keyPress_cases s k
  · exact absurd hx (h x)
  · exact e

/-- Settles O27: the press takes the turn; it writes Vx and the mode. -/
theorem keyPressCompletesTheWait : Obligations.KeyPressCompletesTheWait := by
  intro s k
  refine ⟨fun x hm hk hfirst => ?_, fun h => keyPress_of_not_awaiting h k⟩
  have hstep := step_of_press (nextEvent_of_press hm hk hfirst)
  rw [keyPress_of_awaiting (s := s.setPaint false) hm k] at hstep
  refine ⟨_, hstep, rfl, ?_, setReg_sameRegsBut s x (zextKey k), rfl, ?_⟩
  · exact (congrArg BitVec.toNat (setReg_reg_same s x (zextKey k))).trans (zextKey_toNat k)
  · rw [← keyPress_of_awaiting (s := s.setPaint false) hm k]
    exact (((setPaint_frame s false).mono (by simp)).andThen (keyPress_frame _ k) (by simp)).andThen
      (sampleInputs_frame _) (by simp)

/-! ## Bookkeeping -/

theorem stepEvent_keeps_bookkeeping {s u : State} (h : s.stepEvent = .next u) :
    u.cfg = s.cfg ∧ u.batchPos = s.batchPos ∧ u.paintRequest = s.paintRequest ∧ u.tone = s.tone := by
  obtain rfl | ⟨f, rfl⟩ | ⟨-, ⟨f, rfl⟩ | ⟨i, hi⟩⟩ := stepEvent_next_cases h
  · exact ⟨rfl, rfl, rfl, rfl⟩
  · exact ⟨rfl, rfl, rfl, rfl⟩
  · exact ⟨rfl, rfl, rfl, rfl⟩
  · have hcfg := exec_cfg hi
    have hseq := exec_sequencer hi
    have htone := exec_tone hi
    exact ⟨hcfg, hseq.1, hseq.2, htone⟩

/-- A faulted machine has no tick to take. -/
theorem not_faulted_of_nextEvent {s : State} {e : Event} (h : s.nextEvent = some e) : ∀ f, s.mode ≠ .faulted f := by
  intro f hf
  rw [State.nextEvent, hf] at h
  cases h

/-- Settles O36: one case per kind of turn; each names its own event, so the clauses of the others do not apply. -/
theorem sequencerBookkeeping : Obligations.SequencerBookkeeping := by
  intro s t h
  obtain ⟨hev, rfl⟩ | ⟨k, hev, rfl⟩ | ⟨hev, rfl⟩ | ⟨hev, u, hu, rfl⟩ := step_next_cases h <;> rw [hev]
  · have hframe := idle_frame s
    exact ⟨hframe .params (by simp), fun _ => ⟨idle_batchPos s, hframe⟩, nofun, nofun, nofun⟩
  · have hframe := keyPress_frame (s.setPaint false) k
    obtain ⟨hpos, hpaint⟩ := hframe .sequencer (by simp)
    exact ⟨hframe .params (by simp), nofun, nofun, nofun, fun _ _ => ⟨hpos, hpaint, hframe .tone (by simp)⟩⟩
  · have hnot := not_faulted_of_nextEvent hev
    obtain ⟨⟨-, -, htone⟩, hpaint⟩ := timerTick_timersTicked (s := s.endBatch) hnot
    obtain ⟨-, -, -, -, -, -, -, hpos, -, -, hcfg⟩ := timerTick_keeps s.endBatch
    exact ⟨hcfg, nofun, nofun, fun _ => ⟨hpos, hpaint, htone⟩, nofun⟩
  · obtain ⟨hcfg, hpos, hpaint, htone⟩ := stepEvent_keeps_bookkeeping hu
    exact ⟨hcfg, nofun, fun _ => ⟨hpos, hpaint, htone⟩, nofun, nofun⟩

end Sys2Proof.Machine
end

section
/-! PROOF. Runs of many turns: a faulted machine, frames without slots, the frame of a machine that awaits a key
(60_exceptions.md section 3, 70_reset_and_hazards.md section 3). -/

namespace Sys2Proof.Machine

/-! ## After a fault -/

theorem step_of_faulted {s : State} {f : Fault} (h : s.mode = .faulted f) : step s = .next s := by
  have hev : s.nextEvent = none := by rw [State.nextEvent, h]
  have hidle : s.idle = s := by rw [State.idle, h]
  rw [step_of_none hev, hidle]

/-- Settles O35: by induction on the number of steps, each of which is the identity. -/
theorem faultedForever : Obligations.FaultedForever := by
  intro k s f h
  induction k with
  | zero => rfl
  | succ k ih => rw [core_run_next k s s (step_of_faulted h), ih]

/-! ## One turn of a script -/

theorem ports_of_cons {s : State} {p : Inputs} {ps : List Inputs} (h : s.scripted = p :: ps) : s.ports = p := by
  rw [State.ports, h]

theorem stepEvent_scripted {s u : State} (h : s.stepEvent = .next u) : u.scripted = s.scripted := by
  obtain rfl | ⟨f, rfl⟩ | ⟨-, ⟨f, rfl⟩ | ⟨i, hi⟩⟩ := stepEvent_next_cases h
  · rfl
  · rfl
  · rfl
  · exact (exec_inputs hi).1

/-- Every turn of a machine that has not faulted uses up one entry of the script. -/
theorem step_scripted {s t : State} (hs : ∀ f, s.mode ≠ .faulted f) (h : step s = .next t) :
    t.scripted = s.scripted.tail := by
  obtain ⟨-, rfl⟩ | ⟨k, -, rfl⟩ | ⟨-, rfl⟩ | ⟨-, u, hu, rfl⟩ := step_next_cases h
  · obtain ⟨⟨f, hf⟩, -⟩ | ⟨-, e⟩ := idle_cases s
    · exact absurd hf (hs f)
    · rw [e]; rfl
  · exact congrArg List.tail (keyPress_frame (s.setPaint false) k .inputs (by simp)).1
  · obtain ⟨-, -, -, -, -, -, -, -, hscripted, -⟩ := timerTick_keeps s.endBatch
    exact congrArg List.tail hscripted
  · exact congrArg List.tail (stepEvent_scripted (s := s.takeSlot) hu)

/-! ## Frames without slots -/

/-- One turn between frames that have no slots: a tick if the strobe is shown, else nothing. -/
theorem step_of_empty_frame {s : State} (hslots : s.cfg.stepsPerFrame = 0) (hm : s.mode = .running)
    (hpos : s.batchPos = 0) :
    ∃ t, step s = .next t ∧ t.dt.toNat = s.dt.toNat - s.ports.frameStrobe.toNat ∧
      t.st.toNat = s.st.toNat - s.ports.frameStrobe.toNat ∧ t.batchPos = 0 ∧
      Frame [.delay, .sound, .tone, .sequencer, .inputs] s t := by
  obtain ⟨hwait, -, htick⟩ := sequencerTakesSlotsThenTicks s (not_faulted_of_running hm) (noPressTaken_of_running hm)
  cases hstrobe : s.ports.frameStrobe with
  | false =>
    have hdue : ¬ s.frameDue := by simp [State.frameDue, hpos, hstrobe]
    obtain ⟨t, ht, hpos', hframe⟩ := hwait hdue
    exact ⟨t, ht, congrArg BitVec.toNat (hframe .delay (by simp)), congrArg BitVec.toNat (hframe .sound (by simp)),
      hpos'.trans hpos, hframe.mono (by simp)⟩
  | true =>
    obtain ⟨t, ht, hpos', ⟨hcount, -⟩, -, hframe⟩ := htick (.inr hstrobe) (by omega)
    obtain ⟨hdt, hst⟩ := hcount (.inl hm)
    exact ⟨t, ht, hdt, hst, hpos', hframe⟩

theorem filter_strobe_length_cons (p : Inputs) (ps : List Inputs) :
    ((p :: ps).filter Inputs.frameStrobe).length = p.frameStrobe.toNat + (ps.filter Inputs.frameStrobe).length := by
  cases h : p.frameStrobe <;> simp [h, Nat.add_comm]

/-- Settles O30: by induction on the script, one turn for each of its entries. -/
theorem emptyFramesOnlyCountDown : Obligations.EmptyFramesOnlyCountDown := by
  intro s
  generalize hscript : s.scripted = script
  induction script generalizing s with
  | nil => exact fun _ _ hpos => ⟨s, rfl, rfl, rfl, hpos, Frame.refl _ s⟩
  | cons p ps ih =>
    intro hslots hm hpos
    obtain ⟨t, ht, hdt, hst, htpos, hframe⟩ := step_of_empty_frame hslots hm hpos
    have htail : t.scripted = ps := by rw [step_scripted (not_faulted_of_running hm) ht, hscript, List.tail_cons]
    have hcfg : t.cfg = s.cfg := hframe .params (by simp)
    have htm : t.mode = .running := (hframe .mode (by simp)).trans hm
    obtain ⟨u, hu, hudt, hust, hupos, huframe⟩ := ih t htail (hcfg ▸ hslots) htm htpos
    rw [ports_of_cons hscript] at hdt hst
    refine ⟨u, (core_run_next _ s t ht).trans hu, ?_, ?_, hupos, hframe.trans huframe⟩
    · rw [hudt, hdt, filter_strobe_length_cons, Nat.sub_sub]
    · rw [hust, hst, filter_strobe_length_cons, Nat.sub_sub]

/-! ## The frame of a machine that awaits a key -/

/-- Turns that leave the timers, the mode and the parameters do not change what one tick makes of the timers. -/
theorem timersTicked.of_frame {s t u : State} (hframe : Frame [.sequencer, .inputs] s t) (h : timersTicked t u) :
    timersTicked s u := by
  have hdt : t.dt = s.dt := hframe .delay (by simp)
  have hst : t.st = s.st := hframe .sound (by simp)
  have hm : t.mode = s.mode := hframe .mode (by simp)
  have hcfg : t.cfg = s.cfg := hframe .params (by simp)
  unfold timersTicked at h ⊢
  rwa [hdt, hst, hm, hcfg] at h

theorem keyPress_none_of_script {s : State} {n : Nat} (hlen : s.scripted.length = n + 1)
    (hquiet : ∀ p ∈ s.scripted, p.keyPress = none) : s.ports.keyPress = none := by
  obtain ⟨p, ps, hscript⟩ := List.exists_cons_of_length_eq_add_one hlen
  rw [ports_of_cons hscript]
  exact hquiet p (by simp [hscript])

/-- The rest of a frame with `n` slots left: `n` turns that use up the slots, then the tick. -/
theorem run_awaiting_frame (n : Nat) (s : State) (x : Reg) (hm : s.mode = .awaitingKey x) (hdue : s.frameDue)
    (hleft : s.batchPos + n = s.cfg.stepsPerFrame) (hlen : s.scripted.length = n + 1)
    (hquiet : ∀ p ∈ s.scripted, p.keyPress = none) :
    ∃ t, Host.Core.run Sys2Proof.core (n + 1) s = .next t ∧ t.batchPos = 0 ∧ timersTicked s t ∧
      Frame [.delay, .sound, .tone, .sequencer, .inputs] s t := by
  induction n generalizing s with
  | zero =>
    have hpress := keyPress_none_of_script hlen hquiet
    obtain ⟨-, -, htick⟩ := sequencerTakesSlotsThenTicks s (not_faulted_of_awaiting hm) (.inr (.inl hpress))
    obtain ⟨t, ht, hpos, hticked, -, hframe⟩ := htick hdue (by omega)
    exact ⟨t, core_run_next 0 s t ht, hpos, hticked, hframe⟩
  | succ n ih =>
    have hpress := keyPress_none_of_script hlen hquiet
    obtain ⟨t, ht, hpos, -, hframe⟩ := awaitingSlotsAreUsedUp s x hm (.inl hpress) hdue (by omega)
    have htail : t.scripted = s.scripted.tail := step_scripted (not_faulted_of_awaiting hm) ht
    have hcfg : t.cfg = s.cfg := hframe .params (by simp)
    have htm : t.mode = .awaitingKey x := (hframe .mode (by simp)).trans hm
    have htquiet : ∀ p ∈ t.scripted, p.keyPress = none := by
      rw [htail]
      exact fun p hp => hquiet p (List.mem_of_mem_tail hp)
    obtain ⟨u, hu, hupos, hticked, huframe⟩ := ih t htm (.inl (by omega)) (by rw [hpos, hcfg]; omega)
      (by rw [htail, List.length_tail, hlen]; rfl) htquiet
    exact ⟨u, (core_run_next _ s t ht).trans hu, hupos, hticked.of_frame hframe, (hframe.mono (by simp)).trans huframe⟩

/-- Settles O58: the whole frame is the rest of the frame from its first slot. -/
theorem awaitingFrameTicksOnce : Obligations.AwaitingFrameTicksOnce := by
  intro s x hm hpos hstrobe hlen hquiet
  exact run_awaiting_frame s.cfg.stepsPerFrame s x hm (.inr hstrobe) (by omega) hlen hquiet

end Sys2Proof.Machine
end

section
/-! PROOF. Reset, loading (70_reset_and_hazards.md sections 1 and 2), and the placing of an instruction where the
machine fetches next. -/

namespace Sys2Proof.Machine

/-! ## Reset -/

/-- Settles O49: the reset values one by one. -/
theorem resetValues : Obligations.ResetValues := by
  refine ⟨fun a => rfl, fun j => ?_, rfl, rfl, rfl, rfl, rfl, fun r c => Display.clear_cell r c, rfl, rfl, rfl⟩
  simp [State.reset, State.resetWith, reg_def]

/-- Settles O50: a reset takes nothing from the state but the parameters and the inputs. -/
theorem hostResetRestoresEverything : Obligations.HostResetRestoresEverything := by
  refine fun s => ⟨fun p hp => ?_, rfl, rfl, rfl⟩
  cases p with
  | params | inputs => simp at hp
  | regs => exact fun j => rfl
  | memory => exact fun a => rfl
  | sequencer => exact ⟨rfl, rfl⟩
  | _ => rfl

/-! ## Loading -/

theorem loadProgram_fits {image : List Byte} (s : State) (h : image.length ≤ 3584) :
    s.loadProgram image = s.setMem (s.mem.writeFrom programBase 0 image) := if_pos h

theorem loadProgram_too_large {image : List Byte} (s : State) (h : 3584 < image.length) :
    s.loadProgram image = s.raise (.programTooLarge image.length) := if_neg (not_le.mpr h)

/-- Settles O52: the loader raises before it writes, and no step of a faulted machine does anything (O35). -/
theorem oversizedImageStopsTheMachine : Obligations.OversizedImageStopsTheMachine := by
  intro s image k h
  rw [loadProgram_too_large s h]
  refine ⟨rfl, raise_frame s _, faultedForever k _ (.programTooLarge image.length) ?_⟩
  rw [State.boot, loadProgram_too_large _ h, raise_mode]

theorem byteAddr_fontBase {j : Nat} (h : j < 4096) : byteAddr fontBase j = j := by
  simp [byteAddr, fontBase, memSize, Nat.mod_eq_of_lt h]

theorem byteAddr_programBase {j : Nat} (h : j < 3584) : byteAddr programBase j = 0x200 + j :=
  byteAddr_of_ok programBase 3584 j (by decide) h

theorem fontTable_length (c : Config) : c.fontTable.toList.length = 80 := Vector.length_toList

/-- The memory of a booted machine whose image fits: the image is written over a memory that holds the font table. -/
theorem boot_fits {image : List Byte} (s : State) (h : image.length ≤ 3584) : s.boot image =
    s.hostReset.setMem ((Memory.writeFrom [] fontBase 0 s.cfg.fontTable.toList).writeFrom programBase 0 image) :=
  loadProgram_fits _ h

/-- An address outside the image holds what the font table's load left. -/
theorem boot_byte_outside {image : List Byte} (s : State) (h : image.length ≤ 3584) {a : Nat}
    (ha : a < 0x200 ∨ 0x200 + image.length ≤ a) :
    (s.boot image).byte a = Memory.read (Memory.writeFrom [] fontBase 0 s.cfg.fontTable.toList) a := by
  rw [boot_fits s h]
  refine Memory.read_writeFrom_other _ programBase 0 image a (fun k hk => ?_)
  rw [Nat.zero_add, byteAddr_programBase (by omega)]
  omega

/-- Settles O51: the image's addresses from the image's store, the others from the font table's store. -/
theorem bootLaysOutMemory : Obligations.BootLaysOutMemory := by
  intro s image h
  refine ⟨fun j => ?_, fun j hj => ?_, fun a hfont himage => ?_, ?_⟩
  · have hj : j.val < s.cfg.fontTable.toList.length := by rw [fontTable_length]; exact j.isLt
    have hread := Memory.read_writeFrom [] fontBase 0 s.cfg.fontTable.toList (by rw [fontTable_length]; decide) j.val hj
    rw [Nat.zero_add, byteAddr_fontBase (by omega)] at hread
    rw [boot_byte_outside s h (.inl (by omega)), hread, Vector.getElem_toList]
    rfl
  · have hread := Memory.read_writeFrom (Memory.writeFrom [] fontBase 0 s.cfg.fontTable.toList) programBase 0 image
      (h.trans (by decide)) j hj
    rw [Nat.zero_add, byteAddr_programBase (by omega)] at hread
    rw [boot_fits s h]
    exact hread
  · rw [boot_byte_outside s h himage, Memory.read_writeFrom_other, Memory.read_nil]
    · rfl
    · intro k hk
      rw [fontTable_length] at hk
      rw [Nat.zero_add, byteAddr_fontBase (by omega)]
      omega
  · rw [boot_fits s h]
    exact setMem_frame s.hostReset _

/-! ## Placing an instruction (assumption 10) -/

theorem programBase_canAccess (s : State) : canAccess s programBase 2 := .inr (.inr (by decide))

/-- Where the word is placed: at `PC` if a fetch can reach it. -/
theorem withFetchWord_pc (s : State) (nbits w : Nat) :
    (s.withFetchWord nbits w).pc = if accessOk s.cfg s.pc 2 then s.pc else programBase := rfl

theorem withFetchWord_fetch_fits (s : State) (nbits w : Nat) :
    canAccess (s.withFetchWord nbits w) (s.withFetchWord nbits w).pc 2 := by
  rw [withFetchWord_pc]
  split
  · next h => exact (canAccess_iff s s.pc 2).mpr h
  · exact programBase_canAccess _

theorem withFetchWord_slot (s : State) (nbits w : Nat) :
    (s.withFetchWord nbits w).batchPos < (s.withFetchWord nbits w).cfg.stepsPerFrame := by
  show (if s.batchPos < s.cfg.stepsPerFrame then s.batchPos else 0) <
    if s.cfg.stepsPerFrame = 0 then 1 else s.cfg.stepsPerFrame
  split_ifs <;> omega

theorem withFetchWord_scripted (s : State) (nbits w : Nat) : (s.withFetchWord nbits w).scripted =
    if (s.withFetchWord nbits w).batchPos = 0 then { s.ports with frameStrobe := true } :: s.scripted.tail
    else s.scripted := rfl

/-- Between frames the inputs shown next are those of `s` with the strobe asserted. -/
theorem withFetchWord_ports_between {s : State} {nbits w : Nat} (h : (s.withFetchWord nbits w).batchPos = 0) :
    (s.withFetchWord nbits w).ports = { s.ports with frameStrobe := true } :=
  ports_of_cons ((withFetchWord_scripted s nbits w).trans (if_pos h))

/-- Inside a frame the inputs shown next are those of `s`. -/
theorem withFetchWord_ports_inside {s : State} {nbits w : Nat} (h : (s.withFetchWord nbits w).batchPos ≠ 0) :
    (s.withFetchWord nbits w).ports = s.ports := by
  have hscripted : (s.withFetchWord nbits w).scripted = s.scripted :=
    (withFetchWord_scripted s nbits w).trans (if_neg h)
  rw [State.ports, State.ports, hscripted]
  rfl

/-- In either case a frame is due, and the keys and the random byte are those of `s`. -/
theorem withFetchWord_inputs (s : State) (nbits w : Nat) : (s.withFetchWord nbits w).frameDue ∧
    (s.withFetchWord nbits w).ports.keyHeld = s.ports.keyHeld ∧
    (s.withFetchWord nbits w).ports.randByte = s.ports.randByte := by
  by_cases h : (s.withFetchWord nbits w).batchPos = 0
  · have hports := withFetchWord_ports_between h
    rw [State.frameDue, hports]
    exact ⟨.inr rfl, rfl, rfl⟩
  · rw [withFetchWord_ports_inside h]
    exact ⟨.inl (Nat.pos_of_ne_zero h), rfl, rfl⟩

/-- The word a fetch reads is the one that was placed. -/
theorem withFetchWord_fetchWord (s : State) (w : Word) : (s.withFetchWord 16 w.toNat).fetchWord = w := by
  have hw : BitVec.ofNat 16 (w.toNat % 2 ^ 16) = w := by
    rw [Nat.mod_eq_of_lt w.isLt, BitVec.ofNat_toNat, BitVec.setWidth_eq]
  have hmem : (s.withFetchWord 16 w.toNat).mem =
      s.mem.writeFrom (s.withFetchWord 16 w.toNat).pc 0 [highByte w, lowByte w] := by
    show s.mem.writeFrom _ 0 [highByte (BitVec.ofNat 16 (w.toNat % 2 ^ 16)), lowByte (BitVec.ofNat 16 _)] = _
    rw [hw]
    rfl
  have hread := s.mem.read_writeFrom (s.withFetchWord 16 w.toNat).pc 0 [highByte w, lowByte w] (by decide : 2 ≤ memSize)
  have hhigh := hread 0 (by decide : 0 < 2)
  have hlow := hread 1 (by decide : 1 < 2)
  rw [State.fetchWord, hmem]
  exact (congrArg₂ wordOfBytes hhigh hlow).trans (wordOfBytes_bytes w)

/-- The pieces an instruction may read but `PC` and memory are those of the state it was placed in. -/
theorem withFetchWord_frame (s : State) (nbits w : Nat) :
    Frame [.memory, .pc, .mode, .sequencer, .inputs, .params] s (s.withFetchWord nbits w) := by
  intro p hp
  cases p with
  | memory | pc | mode | sequencer | inputs | params => simp at hp
  | regs => exact fun j => rfl
  | _ => rfl

/-- Settles O53: the placed state is a running machine with a slot to take and a fetch that fits (O32), and the fetched
word is the placed one. -/
theorem placedWordIsRunNext : Obligations.PlacedWordIsRunNext := by
  intro s w i hi
  obtain ⟨hdue, hkeys, hrandom⟩ := withFetchWord_inputs s 16 w.toNat
  obtain ⟨-, -, -, hrun⟩ :=
    stepRunsTheDecodedInstruction (s.withFetchWord 16 w.toNat) rfl hdue (withFetchWord_slot s 16 _)
  have hstep := hrun (withFetchWord_fetch_fits s 16 _) i (by rw [withFetchWord_fetchWord, hi])
  refine ⟨_, hstep, ?_, hkeys, hrandom, rfl, fun h => ?_⟩
  · exact ((withFetchWord_frame s 16 _).andThen (takeSlot_frame _) (by simp)).andThen (advancePc_frame _) (by simp)
  · rw [advancePc_pc_toNat, takeSlot_pc, withFetchWord_pc, if_pos ((canAccess_iff s s.pc 2).mp h)]

end Sys2Proof.Machine
end
